-- ==== Sys2Proof/Word.lean ====
section
/-! DEFINITION. The word types of the block (R10): bits, bytes, 12-bit Channel Values and the 32-bit
command header. Operand Channel Values are natural numbers (R100); a chip's register holds 12 bits (R80). -/

namespace Sys2Proof

/-- R10: a Bit, high = on = `true` = 1. -/
abbrev Bit := Bool

/-- R10: an unsigned 8-bit value. -/
abbrev Byte := BitVec 8

/-- R10, R80: one 12-bit grey-scale value as a chip's register holds it. -/
abbrev ChannelValue := BitVec 12

/-- R102, R110: a 32-bit command or response header. -/
abbrev Header := BitVec 32

end Sys2Proof
end

