-- ==== Sys2Proof/Config.lean ====
section
/-! DEFINITION. The parameters of R8: the values the spec fixes, the record of those it leaves to a
build, and the free values (opaque constants: nothing can evaluate them or prove what they are). -/

namespace Sys2Proof

/-- R14, R33: the four control lines. -/
inductive Line where
  | gsclk
  | blank
  | vprg
  | xlat
deriving DecidableEq, Repr

/-- R8: what the seven pin parameters name (`sin` is meaningful only when SIN_PRESENT, C2). -/
inductive PinRole where
  | gsclk
  | blank
  | vprg
  | xlat
  | sclk
  | sout
  | sin
deriving DecidableEq, Repr

/-- R185: what the transport does with one transmission. -/
inductive TransportDraw where
  | ok
  | err
  | hang
deriving DecidableEq, Repr, Inhabited

/-- R8, R34: the platform's pin identifiers; opaque numbers the block never computes with. -/
structure Pins where
  gsclk : Nat
  blank : Nat
  vprg  : Nat
  xlat  : Nat
  sclk  : Nat
  sout  : Nat
  sin   : Nat
deriving DecidableEq, Repr

/-- R8: the parameters a build fixes. They are inputs of a step, not block state (R44). -/
structure Params where
  /-- `CONFIG_VALID` (OPEN, D42): read by INIT only (R190). -/
  configValid    : Bool
  /-- `LEGACY_TRUNCATE` (D8, default `false`): read by PACK_BITS only (R144). -/
  legacyTruncate : Bool
  /-- `SIN_PRESENT` (OPEN, D44): no rule reads it (R184). -/
  sinPresent     : Bool
  /-- `N_CHIPS` (OPEN, D43): the observer's only (R9). -/
  nChips         : Nat
  /-- `PIN_*` (OPEN, D42): configuration the block never samples (R34). -/
  pins           : Pins
deriving DecidableEq, Repr

namespace Config

/-- R8 `BITS_PER_CHANNEL`. -/
@[simp] abbrev bitsPerChannel : Nat := 12
/-- R8 `CHANNEL_MAX`. -/
@[simp] abbrev channelMax : Nat := 4095
/-- R8 `CHANNELS_PER_CHIP`. -/
@[simp] abbrev channelsPerChip : Nat := 16
/-- R8 `BYTES_PER_CHIP`. -/
@[simp] abbrev bytesPerChip : Nat := 24
/-- R8 `SERIAL_UNIT_BITS`. -/
@[simp] abbrev serialUnitBits : Nat := 8
/-- R8 `SCLK_HZ`: timing; no rule depends on it (R285). -/
@[simp] abbrev sclkHz : Nat := 10000000
/-- R8 `N_CONTROL_LINES`. -/
@[simp] abbrev nControlLines : Nat := 4
/-- R8 `SPI_MODE` (D20): SCLK idles low, data is sampled on the rising edge. -/
@[simp] abbrev spiMode : Nat := 0
/-- R8 `MAX_LEN` (D34): the largest count the 24-bit LEN field carries. -/
@[simp] abbrev maxLen : Nat := 2 ^ 24 - 1
/-- Bits of one chip's shift register, 16 x 12 (R80). -/
@[simp] abbrev bitsPerChip : Nat := 192

/-- OPEN (D42): whether the platform's pins and serial configuration are valid. -/
opaque configValid : Bool
/-- OPEN (D44): whether a serial data-in is connected. -/
opaque sinPresent : Bool
/-- OPEN (D43): N_CHIPS less one, so that N_CHIPS is at least 1. -/
opaque nChipsLessOne : Nat
/-- OPEN (D42): the platform's pin identifiers. -/
opaque pin : PinRole → Nat

/-- OPEN (D19, R185): the transport's answer to its `n`-th free draw, for the bytes sent (DESIGN CHOICE of
form, log entry 3). -/
opaque transport : Nat → List Byte → TransportDraw

/-- R80, R89: bit `p` of the chain's shift register where draw `n` makes it unknown. -/
opaque freeBit : Nat → Nat → Bit
/-- R80, R89: Channel Value `i` of the active register where draw `n` makes it unknown. -/
opaque freeChannel : Nat → Nat → ChannelValue
/-- R80: chip `c`'s grey-scale count at power-on. -/
opaque freeCount : Nat → Nat
/-- R45, R80: the level the chips see on a line before the block has driven it. -/
opaque freeLevel : Line → Bit
/-- R185 (I5): how many bits of a transmission in flight have reached the chips, at draw `n` (DESIGN CHOICE:
the first ones, log entry 10). -/
opaque freeDelivered : Nat → Nat

/-- R8: the parameters at power-on; the OPEN ones are free (DESIGN CHOICE, log entry 5), LEGACY_TRUNCATE has
its default (D8, log entry 6). -/
def params : Params where
  configValid := configValid
  legacyTruncate := false
  sinPresent := sinPresent
  nChips := nChipsLessOne + 1
  pins :=
    { gsclk := pin .gsclk, blank := pin .blank, vprg := pin .vprg, xlat := pin .xlat,
      sclk := pin .sclk, sout := pin .sout, sin := pin .sin }

end Config

end Sys2Proof
end

