-- ==== Sys2Proof/Syntax.lean ====
section
/-! DEFINITION. The six commands as terms (R100, the normative interface): one constructor per row of
the opcode table, each carrying its operand whole. List operands have no length limit in the term, and an
element of a Channel Value list is any natural number (R100). -/

namespace Sys2Proof

/-- R100: a command. -/
inductive Instr where
  /-- Construction of the Device Controller (R190). -/
  | init
  /-- Pack any bit sequence into bytes (R143). -/
  | packBits (b : List Bit)
  /-- On/off flags to full-on or full-off 12-bit codes (R146). -/
  | expandOutputs (f : List Bit)
  /-- On/off flags to bytes (R147). -/
  | simpleByteArray (f : List Bit)
  /-- A Frame of Channel Values to bytes (R149). -/
  | packChannelValues (v : List Nat)
  /-- Transmit, latch and activate a byte sequence (R192). -/
  | applyFrame (bs : List Byte)
deriving DecidableEq, Repr

end Sys2Proof
end

