-- ==== Sys2Proof/Decode.lean ====
section
/-! DEFINITION. Bits and bytes (R10, R11, R62), the binary command layer (R102-R109) and its decoder,
total on any header and payload, rejecting by name; then the encoder, from the same tables. -/

namespace Sys2Proof

/-! ### Bit sequences (R11) -/

/-- R11: `s[i..j)`. -/
def slice {α : Type} (s : List α) (i j : Nat) : List α := (s.drop i).take (j - i)

/-- R11: reads a bit sequence as a number, first bit most significant. -/
def val (bs : List Bit) : Nat := bs.foldl (fun acc b => 2 * acc + b.toNat) 0

/-- R11: `bits_k(v)`, the bits of a `k`-bit value, most significant first. -/
def bitsOf (k v : Nat) : List Bit := (List.range k).map fun i => v.testBit (k - 1 - i)

/-- R142: eight consecutive bits a byte, most significant first (R62). It makes whole bytes only, so on
a length that is no multiple of 8 it packs the `8 * (len / 8)` first bits. -/
def pack (b : List Bit) : List Byte :=
  (List.range (b.length / 8)).map fun j => BitVec.ofNat 8 (val (slice b (8 * j) (8 * j + 8)))

/-- R145: the bits of a byte sequence, most significant first within each byte. -/
def unpack (bs : List Byte) : List Bit := bs.flatMap fun b => bitsOf 8 b.toNat

/-- The bits followed by zeros up to a whole number of bytes (R106, R110). -/
def padToByte (b : List Bit) : List Bit := b ++ List.replicate ((8 - b.length % 8) % 8) false

/-! ### Frames of the binary layer (R102, R103) -/

/-- R102: a binary command as the bus delimits it: a header and the payload bytes. -/
structure Frame where
  header  : Header
  payload : List Byte
deriving DecidableEq, Repr

/-- R102: `OPC`, bits 31 to 24 of the header. -/
def Frame.opc (f : Frame) : Byte := f.header.extractLsb' 24 8

/-- R102, R105: `LEN`, bits 23 to 0 of the header, an unsigned element count, never scaled. -/
def Frame.len (f : Frame) : Nat := (f.header.extractLsb' 0 24).toNat

/-- R102: the header of an opcode and a 24-bit count. -/
def headerOf (opc : Byte) (len : Nat) : Header := opc ++ BitVec.ofNat 24 len

/-- R103: the four bytes of a header, most significant first. -/
def headerBytes (h : Header) : List Byte :=
  [h.extractLsb' 24 8, h.extractLsb' 16 8, h.extractLsb' 8 8, h.extractLsb' 0 8]

/-- R103: a command as it travels. -/
def Frame.toBytes (f : Frame) : List Byte := headerBytes f.header ++ f.payload

/-- R103: a framed message read back; fewer than four bytes hold no header. -/
def Frame.ofBytes : List Byte → Option Frame
  | b0 :: b1 :: b2 :: b3 :: pay => some { header := b0 ++ b1 ++ b2 ++ b3, payload := pay }
  | _ => none

/-! ### The opcode map (R104) -/

/-- R104: the six assigned opcodes. -/
inductive Opcode where
  | init
  | packBits
  | expandOutputs
  | simpleByteArray
  | packChannelValues
  | applyFrame
deriving DecidableEq, Repr

/-- R104: the opcode's code. -/
def Opcode.code : Opcode → Byte
  | .init => 0x01#8
  | .packBits => 0x02#8
  | .expandOutputs => 0x03#8
  | .simpleByteArray => 0x04#8
  | .packChannelValues => 0x05#8
  | .applyFrame => 0x06#8

/-- R104, R111: `0x00` and `0x07` to `0xFF` are reserved. -/
def Opcode.ofCode (c : Byte) : Option Opcode :=
  match c.toNat with
  | 1 => some .init
  | 2 => some .packBits
  | 3 => some .expandOutputs
  | 4 => some .simpleByteArray
  | 5 => some .packChannelValues
  | 6 => some .applyFrame
  | _ => none

/-- R104: how many payload bytes a count implies. -/
def Opcode.payloadBytes : Opcode → Nat → Nat
  | .init, _ => 0
  | .packBits, n => (n + 7) / 8
  | .expandOutputs, n => (n + 7) / 8
  | .simpleByteArray, n => (n + 7) / 8
  | .packChannelValues, n => 2 * n
  | .applyFrame, n => n

/-- R109: how many elements the response's payload could have. -/
def Opcode.resultCount : Opcode → Nat → Nat
  | .init, _ => 0
  | .packBits, n => n / 8
  | .expandOutputs, n => 12 * n
  | .simpleByteArray, n => 12 * n / 8
  | .packChannelValues, n => 12 * n / 8
  | .applyFrame, _ => 0

/-! ### Operands (R106-R108) -/

/-- R106: the first `len` bits of the payload, most significant first in each byte; the unused low bits
of the last byte are ignored. -/
def bitOperand (len : Nat) (pay : List Byte) : List Bit := (unpack pay).take len

/-- R107: 16-bit big-endian elements. -/
def valueOperand : List Byte → List Nat
  | hi :: lo :: rest => (hi.toNat * 256 + lo.toNat) :: valueOperand rest
  | _ => []

/-- R106-R108: the command term of an opcode, a count and a payload of the length the count implies. -/
def Opcode.term (op : Opcode) (len : Nat) (pay : List Byte) : Instr :=
  match op with
  | .init => .init
  | .packBits => .packBits (bitOperand len pay)
  | .expandOutputs => .expandOutputs (bitOperand len pay)
  | .simpleByteArray => .simpleByteArray (bitOperand len pay)
  | .packChannelValues => .packChannelValues (valueOperand pay)
  | .applyFrame => .applyFrame pay

/-! ### The decoder (R109) -/

/-- R109, R231: why the decoder rejects a command. -/
inductive IllegalCommand where
  /-- Detail 1: reserved opcode. -/
  | reservedOpcode
  /-- Detail 2: INIT with a non-zero LEN. -/
  | initLength
  /-- Detail 3: the payload's length does not match LEN. -/
  | payloadLength
  /-- Detail 4: the response's element count would exceed MAX_LEN. -/
  | responseTooLong
deriving DecidableEq, Repr

/-- R231: the detail code of a rejection. -/
def IllegalCommand.detail : IllegalCommand → Nat
  | .reservedOpcode => 1
  | .initLength => 2
  | .payloadLength => 3
  | .responseTooLong => 4

/-- R109: the decoder; the checks run in this order, the first that fails is reported (R239). -/
def decode (f : Frame) : Except IllegalCommand Instr :=
  match Opcode.ofCode f.opc with
  | none => .error .reservedOpcode
  | some op =>
    if op = .init ∧ f.len ≠ 0 then .error .initLength
    else if f.payload.length ≠ op.payloadBytes f.len then .error .payloadLength
    else if op.resultCount f.len > Config.maxLen then .error .responseTooLong
    else .ok (op.term f.len f.payload)

/-- Why a message of bytes gives no command: it holds no header (no message of R102; bus framing is not
part of the block), or the decoder rejects it. -/
inductive BytesReject where
  | noHeader
  | illegal (e : IllegalCommand)
deriving DecidableEq, Repr

/-- R103, R109: the decoder on the bytes of a framed message, total on any bytes. -/
def decodeBytes (bytes : List Byte) : Except BytesReject Instr :=
  match Frame.ofBytes bytes with
  | none => .error .noHeader
  | some f =>
    match decode f with
    | .ok i => .ok i
    | .error e => .error (.illegal e)

/-! ### The encoder -/

/-- R104: the opcode of a command. -/
def Instr.opcode : Instr → Opcode
  | .init => .init
  | .packBits _ => .packBits
  | .expandOutputs _ => .expandOutputs
  | .simpleByteArray _ => .simpleByteArray
  | .packChannelValues _ => .packChannelValues
  | .applyFrame _ => .applyFrame

/-- R104, R105: the element count of a command's operand. -/
def Instr.count : Instr → Nat
  | .init => 0
  | .packBits b => b.length
  | .expandOutputs f => f.length
  | .simpleByteArray f => f.length
  | .packChannelValues v => v.length
  | .applyFrame bs => bs.length

/-- R107: the two bytes of one Channel Value element. -/
def valueBytes (v : Nat) : List Byte := [BitVec.ofNat 8 (v / 256), BitVec.ofNat 8 v]

/-- R106-R108: the payload of a command. -/
def Instr.payload : Instr → List Byte
  | .init => []
  | .packBits b => pack (padToByte b)
  | .expandOutputs f => pack (padToByte f)
  | .simpleByteArray f => pack (padToByte f)
  | .packChannelValues v => v.flatMap valueBytes
  | .applyFrame bs => bs

/-- R102, R116: the binary command of a term. -/
def encode (i : Instr) : Frame where
  header := headerOf i.opcode.code i.count
  payload := i.payload

/-! ### Words of the opcode table -/

/-- The frame whose header is the low 32 bits of `w`; its payload has the length LEN implies and takes
the bits above, a byte at a time, those at or above `nbits` being 0. -/
def tableFrame (nbits w : Nat) : Frame :=
  let bits := w % 2 ^ nbits
  let h := BitVec.ofNat 32 bits
  let probe : Frame := { header := h, payload := [] }
  let n := match Opcode.ofCode probe.opc with
    | none => 0
    | some op => op.payloadBytes probe.len
  { header := h, payload := (List.range n).map fun j => BitVec.ofNat 8 (bits >>> (32 + 8 * j)) }

/-- What the decoder reads from a table row's word. -/
def decodeTableWord (nbits w : Nat) : Option Instr :=
  match decode (tableFrame nbits w) with
  | .ok i => some i
  | .error _ => none

end Sys2Proof
end

