-- ==== Sys2Proof/Machine/State.lean ====
section
/-! DEFINITION. The state: the block's tuple of R44, the responses record of R242, the host's command
port (R189), the parameters of R8, the transport's inputs (R185) and the observer of R80; and the state
right after power-on (R45, R270). Plain data throughout. -/

namespace Sys2Proof.Machine

/-- One value for each control line (R33: levels driven; R80: levels seen). -/
structure LineBank (α : Type) where
  gsclk : α
  blank : α
  vprg  : α
  xlat  : α
deriving DecidableEq, Repr

/-- R35: the bit order of a transfer unit. -/
inductive SerialOrder where
  | msb
  | lsb
deriving DecidableEq, Repr

/-- R35: the serial transport's configuration. -/
structure SerialCfg where
  unitBits : Nat
  order    : SerialOrder
  rateHz   : Nat
deriving DecidableEq, Repr

/-- R37: the phases of APPLY_FRAME, the two sub-phases of D16 among them. -/
inductive Phase where
  | idle
  | transmitting
  | blanked
  | latchHigh
  | latched
  | unblanked
  | clockHigh
  | clocked
deriving DecidableEq, Repr

/-- R13, R190: the last micro-step an INIT in progress has taken, `start` where it has taken none. R37 gives
INIT no phase, so this is the model's own (DESIGN CHOICE, log entry 2). -/
inductive InitStage where
  | start
  | gsclkLow
  | blankHigh
  | vprgLow
  | xlatLow
  | configured
deriving DecidableEq, Repr

/-- R41: an answer that reaches the trace (a hang never does). -/
inductive LinkAnswer where
  | ok
  | err
deriving DecidableEq, Repr

/-- R41: what the block does at its downstream port. -/
inductive Event where
  | setLine (l : Line) (v : Bit)
  | configureSerial (c : SerialCfg)
  | transmit (bs : List Byte)
  | transportAnswer (a : LinkAnswer)
deriving DecidableEq, Repr

/-- R231: the error statuses (OK is the constructor `Response.ok`). -/
inductive ErrorStatus where
  | configurationError
  | transportError
  | inputShapeError
  | illegalCommand
  | notInitialized
deriving DecidableEq, Repr

/-- R101: what a successful command returns. -/
inductive Payload where
  | noData
  | bits (b : List Bit)
  | bytes (bs : List Byte)
deriving DecidableEq, Repr

/-- R101: the one response a command ends with. -/
inductive Response where
  | ok (p : Payload)
  | err (e : ErrorStatus) (detail : Nat)
deriving DecidableEq, Repr

/-- R100, R102: a command at the port, as a binary frame or taken as an abstract term. -/
inductive PortItem where
  | frame (f : Frame)
  | term (i : Instr)
deriving DecidableEq, Repr

/-- A transmission the chips are seeing: what SR held before it, and its wire bits (R67, R81). -/
structure Flight where
  before : List Bit
  wire   : List Bit
deriving DecidableEq, Repr

/-- R80: what is known of the chained chips. `flight` and `draws` are the model's own fields (DESIGN CHOICE):
the transmission in progress (log entry 10), and the number of free draws taken (log entry 9). -/
structure Observer where
  /-- The chained shift register; position 0 is nearest the block (R81). -/
  sr     : List Bit
  /-- The active grey-scale register, one value a channel (R80). -/
  gs     : List ChannelValue
  /-- Each chip's grey-scale count (R80, R87); DESIGN CHOICE: no reset of it is modelled (log entry 11). -/
  cnt    : List Nat
  /-- The last level seen on each line (R80, R88). -/
  lvl    : LineBank Bit
  flight : Option Flight
  draws  : Nat
deriving DecidableEq, Repr

/-- Everything the spec gives the machine. The first seven fields are the block's whole state (R44). -/
structure State where
  /-- R33: the level last driven on each line, `none` where the block has driven none. -/
  line      : LineBank (Option Bit)
  /-- R35. -/
  serialCfg : Option SerialCfg
  /-- R36: an INIT has succeeded. -/
  bound     : Bool
  /-- R37. -/
  phase     : Phase
  /-- R40: the byte sequence the transport owns. -/
  pending   : List Byte
  /-- R43: the command in progress. -/
  cmd       : Option Instr
  /-- R41: every downstream event, in order. -/
  trace     : List Event
  /-- R13, R190: how far an INIT in progress has gone (DESIGN CHOICE: the model's own, log entry 2). -/
  initStage : InitStage
  /-- R242: every response, in order (DEDUCED, log entry 12). -/
  responses : List Response
  /-- R189: commands the host has issued and the port holds, oldest first (DESIGN CHOICE, log entry 1). -/
  port      : List PortItem
  /-- R8: the build's parameters; no step writes them (DESIGN CHOICE: held here, log entry 5). -/
  params    : Params
  /-- R185: transport answers already known; where there are none, `Config.transport` draws (DESIGN CHOICE,
  log entry 3). -/
  answers   : List TransportDraw
  /-- How many free draws of the transport have been taken (the model's own). -/
  transportDraws : Nat
  /-- R80: the downstream chips; `none` once the observer has refused (R85). No block rule reads it (DESIGN
  CHOICE: held here, log entry 8). -/
  obs       : Option Observer
deriving DecidableEq, Repr

/-- Why the machine can stop with a fault. -/
inductive Fault where
  /-- Raised by APPLY_FRAME in phase Transmitting when the transport never answers (R186, R195): the
  stuck state of I4, in which no row of R188 applies (DESIGN CHOICE, log entry 4). Safe: the hardware waits forever there. -/
  | transportHung
deriving DecidableEq, Repr

/-- Why an instruction can be refused. -/
inductive Refusal where
  /-- For an arm of exec without a meaning; no arm is such. Safe: nothing is claimed of it. -/
  | notModelled (mnemonic : String)
deriving DecidableEq, Repr

/-- R80: the chips at power-on, every value unknown: draw 0 of the free values (DESIGN CHOICE, log entry 9). -/
def Observer.powerOn (nChips : Nat) : Observer where
  sr := (List.range (192 * nChips)).map (Config.freeBit 0)
  gs := (List.range (16 * nChips)).map (Config.freeChannel 0)
  cnt := (List.range nChips).map Config.freeCount
  lvl :=
    { gsclk := Config.freeLevel .gsclk, blank := Config.freeLevel .blank,
      vprg := Config.freeLevel .vprg, xlat := Config.freeLevel .xlat }
  flight := none
  draws := 1

/-- R45, R270: the state at power-on of a build with given parameters. -/
def State.powerOn (p : Params) : State where
  line := { gsclk := none, blank := none, vprg := none, xlat := none }
  serialCfg := none
  bound := false
  phase := .idle
  pending := []
  cmd := none
  trace := []
  initStage := .start
  responses := []
  port := []
  params := p
  answers := []
  transportDraws := 0
  obs := some (Observer.powerOn p.nChips)

/-- R45, R270: power-on reset; the open parameters are free constants. -/
def State.reset : State := State.powerOn Config.params

end Sys2Proof.Machine
end

