-- ==== Sys2Proof/Machine/Observer.lean ====
section
/-! DEFINITION. The downstream TLC5940 chain (R78-R89): what it does on each event of the block's port.
`none` is the observer's refusal (R85). No block rule reads it (R42). -/

namespace Sys2Proof.Machine

/-- The value held for line `l`. -/
def LineBank.get {α : Type} (b : LineBank α) : Line → α
  | .gsclk => b.gsclk
  | .blank => b.blank
  | .vprg => b.vprg
  | .xlat => b.xlat

/-- The bank with line `l`'s value replaced. -/
def LineBank.set {α : Type} (b : LineBank α) (l : Line) (v : α) : LineBank α :=
  match l with
  | .gsclk => { b with gsclk := v }
  | .blank => { b with blank := v }
  | .vprg => { b with vprg := v }
  | .xlat => { b with xlat := v }

/-- R35, R67, R187: the bits of a byte sequence in wire order, one transfer unit a byte. With the only
configuration the block writes (R35: 8 bits, MSB first) this is `unpack`. -/
def SerialCfg.wireBits (c : SerialCfg) (bs : List Byte) : List Bit :=
  bs.flatMap fun b =>
    match c.order with
    | .msb => bitsOf c.unitBits b.toNat
    | .lsb => (bitsOf c.unitBits b.toNat).reverse

/-- R81: one wire bit enters at position 0, every bit moves one place, the last leaves the chain. -/
def shiftOne (sr : List Bit) (w : Bit) : List Bit := (w :: sr).take sr.length

/-- R81: the chain after a sequence of wire bits. -/
def shiftAll (sr : List Bit) (ws : List Bit) : List Bit := ws.foldl shiftOne sr

/-- R79: the chip that holds frame index `i`; chip 0 is nearest the block. -/
def chipOf (i : Nat) : Nat := i / 16

/-- R79: the output of that chip. -/
def outOf (i : Nat) : Nat := i % 16

/-- R82: where bit `b` of chip `c`'s output `o` is held. -/
def srIndex (c o b : Nat) : Nat := 192 * c + 12 * o + b

/-- R82, R85: the value held for frame index `i`, bit 0 at the lowest position. -/
def latchValue (sr : List Bit) (i : Nat) : ChannelValue :=
  BitVec.ofNat 12
    (val (slice sr (srIndex (chipOf i) (outOf i) 0) (srIndex (chipOf i) (outOf i) 12)).reverse)

/-- R85: the active register a latch copies from the shift register. -/
def latch (sr : List Bit) : List ChannelValue := (List.range (sr.length / 12)).map (latchValue sr)

/-- R80, R89: `n` free bits of draw `d`. -/
def freeBits (d n : Nat) : List Bit := (List.range n).map (Config.freeBit d)

/-- R80, R89: `n` free Channel Values of draw `d`. -/
def freeChannels (d n : Nat) : List ChannelValue := (List.range n).map (Config.freeChannel d)

/-- R88: a line write as the chips see it. A level that does not change is no edge. XLAT falling copies
SR to GS when VPRG is 0, and is refused when VPRG is 1 (R85); GSCLK rising advances every count (R87). -/
def Observer.seeLine (o : Observer) (l : Line) (v : Bit) : Option Observer :=
  let o' := { o with lvl := o.lvl.set l v }
  if o.lvl.get l = v then some o'
  else
    match l, v with
    | .xlat, false => if o.lvl.vprg then none else some { o' with gs := latch o.sr }
    | .gsclk, true => some { o' with cnt := o.cnt.map (· + 1) }
    | .xlat, true => some o'
    | .gsclk, false => some o'
    | .blank, _ => some o'
    | .vprg, _ => some o'

/-- R185 (I5; DESIGN CHOICE, log entry 10): while the transport has not answered, some unknown part of the
bits, from none to all, has reached the chips. -/
def Observer.beginFlight (o : Observer) (ws : List Bit) : Observer :=
  { o with
    sr := shiftAll o.sr (ws.take (Config.freeDelivered o.draws))
    flight := some { before := o.sr, wire := ws }
    draws := o.draws + 1 }

/-- R185 (D19, log entry 17): an answer `Ok` means that all the bits were put on the wire, in order. -/
def Observer.endFlight (o : Observer) : Observer :=
  match o.flight with
  | some f => { o with sr := shiftAll f.before f.wire, flight := none }
  | none => o

/-- R89: after an answer `Err`, SR and GS are unknown (DESIGN CHOICE: fresh free values, log entry 13). -/
def Observer.havoc (o : Observer) : Observer :=
  { o with
    sr := freeBits o.draws o.sr.length
    gs := freeChannels o.draws o.gs.length
    flight := none
    draws := o.draws + 1 }

/-- R81-R89: what the chips do on one event, the transport being configured as `cfg`. A transmission
without a configuration has no meaning here (R186: it needs one). -/
def Observer.see (cfg : Option SerialCfg) (o : Observer) : Event → Option Observer
  | .setLine l v => o.seeLine l v
  | .configureSerial _ => some o
  | .transmit bs =>
    match cfg with
    | some c => some (o.beginFlight (c.wireBits bs))
    | none => none
  | .transportAnswer .ok => some o.endFlight
  | .transportAnswer .err => some o.havoc

/-- What the chips do on a sequence of events. -/
def Observer.seeAll (cfg : Option SerialCfg) (o : Observer) : List Event → Option Observer
  | [] => some o
  | e :: es => (o.see cfg e).bind fun o' => o'.seeAll cfg es

/-- R86, R87 (DEDUCED, log entry 28): an output while BLANK = 1 is off; while BLANK = 0 its level is not
defined. -/
def Observer.output (o : Observer) (_c _o : Nat) : Option Bit :=
  if o.lvl.blank then some false else none

/-! ### The wire under SPI mode 0 (R187) -/

/-- A change the transport makes on its two lines. -/
inductive WireAct where
  | sout (v : Bit)
  | sclk (v : Bit)
deriving DecidableEq, Repr

/-- R187: SOUT is set while SCLK is low, then SCLK rises and falls, once a bit; no bit, no edge. -/
def wireActs (ws : List Bit) : List WireAct :=
  ws.flatMap fun w => [.sout w, .sclk true, .sclk false]

/-- R187: the bits a chip samples, SOUT at each rising edge of SCLK, from given levels of both. -/
def sampled (sclk sout : Bit) : List WireAct → List Bit
  | [] => []
  | .sout v :: rest => sampled sclk v rest
  | .sclk v :: rest => if v && !sclk then sout :: sampled v sout rest else sampled v sout rest

/-- The level of SCLK after a sequence of changes. -/
def sclkAfter (sclk : Bit) : List WireAct → Bit
  | [] => sclk
  | .sout _ :: rest => sclkAfter sclk rest
  | .sclk v :: rest => sclkAfter v rest

end Sys2Proof.Machine
end

