-- ==== Sys2Proof/Machine/Ops.lean ====
section
/-! DEFINITION. The named operations over the state: the port primitives of R181, R182 and R186, a
command's two endings (R101, R240), acceptance and fetching (R43, R189), and the transport's draw (R185).
No memory operation exists: the block has no addressable memory (R38). -/

namespace Sys2Proof.Machine

/-- R35, R182: the configuration INIT writes, the only legal one. -/
def SerialCfg.standard : SerialCfg :=
  { unitBits := Config.serialUnitBits, order := .msb, rateHz := Config.sclkHz }

/-! ### Events (R41, R73) -/

/-- R12 `Emit`: the event goes to the end of the trace, and the chips see it before anything else happens
(R73, R88). -/
def State.emit (e : Event) (s : State) : State :=
  { s with trace := s.trace ++ [e], obs := s.obs.bind fun o => o.see s.serialCfg e }

/-- R181, R183: drive a line; every write is an event. -/
def State.setLine (l : Line) (v : Bit) (s : State) : State :=
  { s with line := s.line.set l (some v) }.emit (.setLine l v)

/-- R182: configure the serial transport. -/
def State.configureSerial (c : SerialCfg) (s : State) : State :=
  { s with serialCfg := some c }.emit (.configureSerial c)

/-- R186, first half (R188, row Idle): hand the bytes to the transport and wait. -/
def State.beginTransmit (bs : List Byte) (s : State) : State :=
  { s with pending := bs, phase := .transmitting }.emit (.transmit bs)

/-- R186, second half: record the transport's answer. -/
def State.endTransmit (a : LinkAnswer) (s : State) : State :=
  { s.emit (.transportAnswer a) with pending := [] }

/-- R185: the transport's next answer: the known one if there is one, else a free draw. -/
def State.transportDraw (s : State) : TransportDraw :=
  match s.answers with
  | a :: _ => a
  | [] => Config.transport s.transportDraws s.pending

/-- The answer is used up: the known one is dropped, or the free draw is counted. -/
def State.takeDraw (s : State) : State :=
  match s.answers with
  | _ :: rest => { s with answers := rest }
  | [] => { s with transportDraws := s.transportDraws + 1 }

/-! ### A command's end -/

/-- R43, R101: hand the response to the host and free the command slot. -/
def State.respond (r : Response) (s : State) : State :=
  { s with responses := s.responses ++ [r], cmd := none }

/-- R12 `return`: the command ends with `Ok p`. -/
def State.returnOk (p : Payload) (s : State) : State := s.respond (.ok p)

/-- R12 `raise`, R240: taking an error. The `Err` response is formed, `cmd <- none`, `phase <- Idle`,
and nothing else is written. There is no vector and no saved state, and no return from it (R241). -/
def State.raise (e : ErrorStatus) (detail : Nat) (s : State) : State :=
  { s.respond (.err e detail) with phase := .idle }

/-- The end of a command whose whole effect is its response (R140). -/
def State.conclude (r : Response) (s : State) : State :=
  match r with
  | .ok p => s.returnOk p
  | .err e detail => s.raise e detail

/-! ### Acceptance (R43, R189) -/

/-- R43: the command takes the slot. -/
def State.accept (i : Instr) (s : State) : State := { s with cmd := some i }

/-- What the block does next: run a command in a state, or settle in a state without running one. -/
inductive Fetched where
  | run (i : Instr) (s : State)
  | settle (s : State)
deriving DecidableEq, Repr

/-- R109, R189, R235 (DESIGN CHOICE, log entry 1; a rejection: DEDUCED, log entry 7): while a command is in
progress the port holds; otherwise the oldest command at the port is decoded and accepted, or answered
`ILLEGAL_COMMAND`; with nothing there the block waits (R270). -/
def State.fetch (s : State) : Fetched :=
  match s.cmd with
  | some i => .run i s
  | none =>
    match s.port with
    | [] => .settle s
    | .term i :: rest => .run i ({ s with port := rest }.accept i)
    | .frame f :: rest =>
      match decode f with
      | .ok i => .run i ({ s with port := rest }.accept i)
      | .error e => .settle ({ s with port := rest }.raise .illegalCommand e.detail)

end Sys2Proof.Machine
end

