-- ==== Sys2Proof/Machine/Operands.lean ====
section
/-! DEFINITION. The operand checks of the Bit Packer boundary (R141, R234); APPLY_FRAME makes none
(R196). How operands are assembled from a binary payload stands in Decode.lean (R106-R108). -/

namespace Sys2Proof.Machine

/-- R143: a whole number of bytes. -/
def wholeBytes (n : Nat) : Bool := n % 8 == 0

/-- R146, R147, R149: a whole number of chips, at least one (D9). -/
def wholeChips (n : Nat) : Bool := n != 0 && n % Config.channelsPerChip == 0

/-- R149: every Channel Value is at most 4095; none is masked (D10). -/
def channelsInRange (v : List Nat) : Bool := v.all (· ≤ Config.channelMax)

end Sys2Proof.Machine
end

