-- ==== Sys2Proof/Machine/BitPacker.lean ====
section
/-! DEFINITION. The Bit Packer commands (R140-R155): pure functions of the operand (and, for PACK_BITS,
of LEGACY_TRUNCATE); a command's whole effect is its response. `pack` and `unpack` stand in Decode.lean. -/

namespace Sys2Proof.Machine

/-! ### Helper functions -/

/-- R146: twelve copies of each flag, last flag first. -/
def expand (f : List Bit) : List Bit :=
  f.reverse.flatMap fun b => List.replicate Config.bitsPerChannel b

/-- R148: the bit stream of a Frame, last channel first (R64), each value MSB first (R63). -/
def stream (v : List Nat) : List Bit :=
  v.reverse.flatMap (bitsOf Config.bitsPerChannel)

/-- R152: the Frame of `24 N` packed bytes. -/
def unpackFrame (bs : List Byte) : List Nat :=
  let n := bs.length / Config.bytesPerChip
  (List.range (16 * n)).map fun i =>
    val (slice (unpack bs) (12 * (16 * n - 1 - i)) (12 * (16 * n - 1 - i) + 12))

/-- R150: the Channel Value an on/off flag stands for. -/
def flagValue (b : Bit) : Nat := if b then Config.channelMax else 0

/-! ### Responses -/

/-- R143, R144: reject a bit count that is no multiple of 8, or drop the trailing group in legacy mode. -/
def packBits (legacy : Bool) (b : List Bit) : Response :=
  if wholeBytes b.length then .ok (.bytes (pack b))
  else if legacy then .ok (.bytes (pack (slice b 0 (8 * (b.length / 8)))))
  else .err .inputShapeError 1

/-- R146. -/
def expandOutputs (f : List Bit) : Response :=
  if wholeChips f.length then .ok (.bits (expand f)) else .err .inputShapeError 2

/-- R147: expand, then pack. -/
def simpleByteArray (f : List Bit) : Response :=
  if wholeChips f.length then .ok (.bytes (pack (expand f))) else .err .inputShapeError 2

/-- R149, R239: the length is checked before the range. -/
def packChannelValues (v : List Nat) : Response :=
  if wholeChips v.length then
    if channelsInRange v then .ok (.bytes (pack (stream v))) else .err .inputShapeError 3
  else .err .inputShapeError 2

/-! ### Meanings (R140: no event, no state but the command slot) -/

/-- PACK_BITS (R143). -/
def execPackBits (b : List Bit) (s : State) : Host.Outcome State Fault Refusal :=
  .next (s.conclude (packBits s.params.legacyTruncate b))

/-- EXPAND_OUTPUTS (R146). -/
def execExpandOutputs (f : List Bit) (s : State) : Host.Outcome State Fault Refusal :=
  .next (s.conclude (expandOutputs f))

/-- SIMPLE_BYTE_ARRAY (R147). -/
def execSimpleByteArray (f : List Bit) (s : State) : Host.Outcome State Fault Refusal :=
  .next (s.conclude (simpleByteArray f))

/-- PACK_CHANNEL_VALUES (R149). -/
def execPackChannelValues (v : List Nat) (s : State) : Host.Outcome State Fault Refusal :=
  .next (s.conclude (packChannelValues v))

end Sys2Proof.Machine
end

