-- ==== Sys2Proof/Machine/DeviceController.lean ====
section
/-! DEFINITION. The Device Controller commands (R180-R201), one micro-step each time they are run (R13): INIT
by the lines of R190's pseudocode, APPLY_FRAME by the rows of R188, the phase register saying which. -/

namespace Sys2Proof.Machine

/-- INIT (R190, R191, R232): the configuration is checked before any event, then each action of the
pseudocode is one micro-step with its one event (R13), in the order of D13 (log entry 20); the last binds and
answers. The phase stays Idle (R37); the stage says which action is next (DESIGN CHOICE, log entry 2). INIT may
be issued again. -/
def execInit (s : State) : Host.Outcome State Fault Refusal :=
  match s.initStage with
  | .start =>
    .next (if s.params.configValid then { s.setLine .gsclk false with initStage := .gsclkLow }
      else s.raise .configurationError 0)
  | .gsclkLow => .next { s.setLine .blank true with initStage := .blankHigh }
  | .blankHigh => .next { s.setLine .vprg false with initStage := .vprgLow }
  | .vprgLow => .next { s.setLine .xlat false with initStage := .xlatLow }
  | .xlatLow => .next { s.configureSerial SerialCfg.standard with initStage := .configured }
  | .configured => .next ({ s with bound := true, initStage := .start }.returnOk .noData)

/-- R188, row Idle: APPLY_FRAME accepted; without a successful INIT it is answered NOT_INITIALIZED (R236). -/
def applyFrameStart (bs : List Byte) (s : State) : State :=
  if s.bound then s.beginTransmit bs else s.raise .notInitialized 0

/-- R188, rows Transmitting: go on after `Ok`, end with TRANSPORT_ERROR after `Err` (R194), stay forever on
a hang (R195). The row of `Ok` is one micro-step with two events, as R188 and R193 state (DEDUCED against the
letter of R13, log entry 31). -/
def applyFrameAnswer (s : State) : Host.Outcome State Fault Refusal :=
  match s.transportDraw with
  | .ok => .next { (s.takeDraw.endTransmit .ok).setLine .blank true with phase := .blanked }
  | .err => .next ((s.takeDraw.endTransmit .err).raise .transportError 0)
  | .hang => .fault .transportHung

/-- APPLY_FRAME (R192): the row of R188 for the phase. -/
def execApplyFrame (bs : List Byte) (s : State) : Host.Outcome State Fault Refusal :=
  match s.phase with
  | .idle => .next (applyFrameStart bs s)
  | .transmitting => applyFrameAnswer s
  | .blanked => .next { s.setLine .xlat true with phase := .latchHigh }
  | .latchHigh => .next { s.setLine .xlat false with phase := .latched }
  | .latched => .next { s.setLine .blank false with phase := .unblanked }
  | .unblanked => .next { s.setLine .gsclk true with phase := .clockHigh }
  | .clockHigh => .next { s.setLine .gsclk false with phase := .clocked }
  | .clocked => .next ({ s with phase := .idle }.returnOk .noData)

end Sys2Proof.Machine
end

