-- ==== Sys2Proof/Machine/Dispatch.lean ====
section
/-! DEFINITION. The dispatch: one arm per command of the opcode table (R100, R104). -/

namespace Sys2Proof.Machine

def exec (i : Instr) (s : State) : Host.Outcome State Fault Refusal :=
  match i with
  | .init => Sys2Proof.Machine.execInit s
  | .packBits b => Sys2Proof.Machine.execPackBits b s
  | .expandOutputs f => Sys2Proof.Machine.execExpandOutputs f s
  | .simpleByteArray f => Sys2Proof.Machine.execSimpleByteArray f s
  | .packChannelValues v => Sys2Proof.Machine.execPackChannelValues v s
  | .applyFrame bs => Sys2Proof.Machine.execApplyFrame bs s

end Sys2Proof.Machine
end

