-- ==== Sys2Proof/Machine/Step.lean ====
section
/-! DEFINITION. One step of the block (R13, R43, R188, R189): fetch, then run one micro-step of the
command in the slot. -/

namespace Sys2Proof.Machine

/-- One step: a micro-step of the command in progress, or of the command just accepted; or the rejection of
an undecodable command; or waiting. -/
def step (s : State) : Host.Outcome State Fault Refusal :=
  match s.fetch with
  | .run i s' => exec i s'
  | .settle s' => .next s'

/-- `s` with the table word's frame as the next command at the port, and no command in progress, so that
the next step accepts and runs it (DESIGN CHOICE, log entries 1 and 26). -/
def State.withFetchWord (s : State) (nbits w : Nat) : State :=
  { s with port := .frame (tableFrame nbits w) :: s.port, cmd := none, phase := .idle, pending := [],
           initStage := .start }

end Sys2Proof.Machine
end

