-- ==== Sys2Proof/Machine/Assembler.lean ====
section
/-! DEFINITION. The assembler of host programs: the grammar of R113 over lines of characters, the
refusals of R114, the pseudo-instructions of R115. It is the host's, not the block's: a statement becomes
the binary command of its term (`encode`, R116) when the host issues it (Machine/HostProgram.lean). -/

namespace Sys2Proof.Machine.Asm

/-! ### Tokens -/

/-- R113: the tokens of a line. -/
inductive Tok where
  | word (s : List Char)
  | num (n : Nat)
  | str (s : List Char)
  | hexStr (s : List Char)
  | assign
  | plus
  | star
  | lbr
  | rbr
  | comma
deriving DecidableEq, Repr

/-- Where a scan of a line stands. -/
inductive Mode where
  | start
  | word (acc : List Char)
  | str (acc : List Char)
  | hexStr (acc : List Char)
  | colon
  | comment
  | bad
deriving DecidableEq, Repr

/-- A scan: its mode and the tokens so far, last first. -/
structure Scan where
  mode : Mode
  toks : List Tok
deriving DecidableEq, Repr

/-- The double quote. -/
def quote : Char := Char.ofNat 34

/-- R113: letters, digits and `_`. -/
def isWordChar (c : Char) : Bool := c.isAlphanum || c == '_'

/-- The value of a hexadecimal digit. -/
def hexDigit (c : Char) : Option Nat :=
  if c.isDigit then some (c.toNat - 48)
  else if 97 ≤ c.toNat ∧ c.toNat ≤ 102 then some (c.toNat - 87)
  else if 65 ≤ c.toNat ∧ c.toNat ≤ 70 then some (c.toNat - 55)
  else none

/-- The number a digit string writes in a base, `none` when a digit is not one of the base. -/
def digits (base : Nat) (cs : List Char) : Option Nat :=
  cs.foldl (fun acc c => do
    let a ← acc
    let d ← hexDigit c
    if d < base then some (base * a + d) else none) (some 0)

/-- R113 `num`: decimal digits, or `0x` and hexadecimal digits. -/
def number : List Char → Option Nat
  | '0' :: 'x' :: d :: ds => digits 16 (d :: ds)
  | cs => digits 10 cs

/-- The token of a run of word characters (last first): a number or a word. -/
def wordTok (acc : List Char) : Option Tok :=
  match acc.reverse with
  | [] => none
  | c :: cs =>
    if c.isDigit then (number (c :: cs)).map Tok.num
    else if c.isAlpha then some (.word (c :: cs)) else none

/-- The scan after a run of word characters has ended. -/
def Scan.endWord (s : Scan) (acc : List Char) : Scan :=
  match wordTok acc with
  | some t => { mode := .start, toks := t :: s.toks }
  | none => { s with mode := .bad }

/-- The scan with a one-character token. -/
def Scan.push (s : Scan) (t : Tok) : Scan := { mode := .start, toks := t :: s.toks }

/-- A character where a token may begin. -/
def Scan.begin (s : Scan) (c : Char) : Scan :=
  if c = ' ' ∨ c = '\t' then s
  else if c = '#' then { s with mode := .comment }
  else if c = quote then { s with mode := .str [] }
  else if c = ':' then { s with mode := .colon }
  else if c = '+' then s.push .plus
  else if c = '*' then s.push .star
  else if c = '[' then s.push .lbr
  else if c = ']' then s.push .rbr
  else if c = ',' then s.push .comma
  else if isWordChar c then { s with mode := .word [c] }
  else { s with mode := .bad }

/-- One character of a line. R113 names no blanks. DESIGN CHOICE (log entry 23): a run of word characters is one
token, as long as it goes, so a blank is required only between two such runs and is optional elsewhere
(`PACK_BITS"10"`, `PACK_CHANNEL_VALUES[1]`); the run `x` right before a quote opens a byte literal. -/
def Scan.next (s : Scan) (c : Char) : Scan :=
  match s.mode with
  | .start => s.begin c
  | .word acc =>
    if isWordChar c then { s with mode := .word (c :: acc) }
    else if c = quote ∧ acc = ['x'] then { s with mode := .hexStr [] }
    else
      let s' := s.endWord acc
      match s'.mode with
      | .bad => s'
      | _ => s'.begin c
  | .str acc => if c = quote then s.push (.str acc.reverse) else { s with mode := .str (c :: acc) }
  | .hexStr acc =>
    if c = quote then s.push (.hexStr acc.reverse) else { s with mode := .hexStr (c :: acc) }
  | .colon => if c = '=' then s.push .assign else { s with mode := .bad }
  | .comment => s
  | .bad => s

/-- The tokens of a line, a comment dropped; `none` where the line cannot be scanned. -/
def scanLine (line : List Char) : Option (List Tok) :=
  let s := line.foldl Scan.next { mode := .start, toks := [] }
  match s.mode with
  | .start => some s.toks.reverse
  | .comment => some s.toks.reverse
  | .word acc =>
    let s' := s.endWord acc
    match s'.mode with
    | .start => some s'.toks.reverse
    | _ => none
  | .str _ => none
  | .hexStr _ => none
  | .colon => none
  | .bad => none

/-! ### Statements -/

/-- A host variable: a named one, or the fresh one of the pseudo-instruction on a line (R115). -/
inductive Var where
  | named (x : List Char)
  | fresh (lineNo : Nat)
deriving DecidableEq, Repr

/-- An operand: a literal, or a variable that names an earlier response's payload. -/
inductive Src (α : Type) where
  | lit (a : α)
  | var (x : Var)
deriving DecidableEq, Repr

/-- R113: the commands of a program. -/
inductive Cmd where
  | init
  | packBits (s : Src (List Bit))
  | expandOutputs (s : Src (List Bit))
  | simpleByteArray (s : Src (List Bit))
  | packChannelValues (s : Src (List Nat))
  | applyFrame (s : Src (List Byte))
deriving DecidableEq, Repr

/-- One command to issue. `stopOnErr` marks the commands of an expansion (R115): when one ends in `Err`
the program stops. -/
structure Stmt where
  dest      : Option Var
  cmd       : Cmd
  stopOnErr : Bool
deriving DecidableEq, Repr

/-- R114: why a program is refused; none of it is then issued. -/
inductive AsmRefusal where
  /-- The line is not of the grammar of R113 or a pseudo-instruction of R115. -/
  | grammar
  /-- A bit string holds a character other than 0 and 1. -/
  | bitCharacter
  /-- A byte literal holds a character that is no hexadecimal digit, or an odd number of digits. -/
  | hexLiteral
  /-- A number of a value list exceeds 65535. -/
  | valueTooLarge
  /-- A list or repeated piece exceeds MAX_LEN elements. -/
  | tooLong
  /-- R113: a variable is used where its payload's kind is not expected. -/
  | variableKind
deriving DecidableEq, Repr

/-! ### Operand literals -/

/-- R113: pieces joined by `+`, each with its repeat count; `atom` reads the literal of a piece. -/
def pieces {β : Type} (atom : List Tok → Option (β × List Tok)) :
    Nat → List Tok → Option (List (β × Nat))
  | 0, _ => none
  | fuel + 1, ts =>
    match atom ts with
    | none => none
    | some (a, rest) =>
      match rest with
      | [] => some [(a, 1)]
      | [.star, .num k] => some [(a, k)]
      | .plus :: rest' => (pieces atom fuel rest').map ((a, 1) :: ·)
      | .star :: .num k :: .plus :: rest' => (pieces atom fuel rest').map ((a, k) :: ·)
      | _ => none

/-- R113 `bitpiece`: its string. -/
def strAtom : List Tok → Option (List Char × List Tok)
  | .str s :: rest => some (s, rest)
  | _ => none

/-- R113 `bytepiece`: its string. -/
def hexAtom : List Tok → Option (List Char × List Tok)
  | .hexStr s :: rest => some (s, rest)
  | _ => none

/-- The numbers of a value list after its opening bracket. -/
def numbers : List Tok → Option (List Nat × List Tok)
  | .num n :: .comma :: rest => (numbers rest).map fun p => (n :: p.1, p.2)
  | .num n :: .rbr :: rest => some ([n], rest)
  | _ => none

/-- R113 `valpiece`: its list. -/
def listAtom : List Tok → Option (List Nat × List Tok)
  | .lbr :: .rbr :: rest => some ([], rest)
  | .lbr :: rest => numbers rest
  | _ => none

/-- R114: a character of a bit string. -/
def bitOfChar (c : Char) : Except AsmRefusal Bit :=
  if c = '0' then .ok false else if c = '1' then .ok true else .error .bitCharacter

/-- R113, R114: a bit string, read left to right, element 0 first. -/
def bitsLit (cs : List Char) : Except AsmRefusal (List Bit) := cs.mapM bitOfChar

/-- R113, R114: the bytes of a byte literal. -/
def bytesLit : List Char → Except AsmRefusal (List Byte)
  | [] => .ok []
  | [_] => .error .hexLiteral
  | a :: b :: rest =>
    match hexDigit a, hexDigit b, bytesLit rest with
    | some hi, some lo, .ok bs => .ok (BitVec.ofNat 8 (16 * hi + lo) :: bs)
    | _, _, _ => .error .hexLiteral

/-- R114: a number of a value list. -/
def valueLit (n : Nat) : Except AsmRefusal Nat :=
  if n ≤ 65535 then .ok n else .error .valueTooLarge

/-- R113, R114: a value list. -/
def valuesLit (ns : List Nat) : Except AsmRefusal (List Nat) := ns.mapM valueLit

/-- R113: repeat and join the pieces; R114: none as repeated, and not the whole, exceeds MAX_LEN elements. DESIGN
CHOICE (log entry 23): R114's 'a list' is the operand's whole list, not a literal before its repetition, so a
literal longer than MAX_LEN repeated 0 times is accepted. -/
def join {α : Type} : List (List α × Nat) → Except AsmRefusal (List α)
  | [] => .ok []
  | (s, k) :: rest =>
    match join rest with
    | .error e => .error e
    | .ok tail =>
      if s.length * k + tail.length ≤ Config.maxLen then
        .ok ((List.replicate k s).flatten ++ tail)
      else .error .tooLong

/-- An operand of a command: a variable alone, or pieces read by `atom` and `lit`. -/
def operand {α β : Type} (atom : List Tok → Option (β × List Tok))
    (lit : β → Except AsmRefusal (List α)) (ts : List Tok) : Except AsmRefusal (Src (List α)) :=
  match ts with
  | [.word x] => .ok (.var (.named x))
  | _ =>
    match pieces atom (ts.length + 1) ts with
    | none => .error .grammar
    | some ps =>
      match ps.mapM fun p => (lit p.1).map fun s => (s, p.2) with
      | .error e => .error e
      | .ok qs => (join qs).map Src.lit

/-- A `bits` operand. -/
def bitsOperand (ts : List Tok) : Except AsmRefusal (Src (List Bit)) := operand strAtom bitsLit ts

/-- A `bytes` operand. -/
def bytesOperand (ts : List Tok) : Except AsmRefusal (Src (List Byte)) := operand hexAtom bytesLit ts

/-- A `values` operand. -/
def valuesOperand (ts : List Tok) : Except AsmRefusal (Src (List Nat)) :=
  operand listAtom valuesLit ts

/-! ### Lines -/

/-- R113: a command of the block. -/
def command (name : List Char) (ts : List Tok) : Except AsmRefusal Cmd :=
  if name = "INIT".toList then
    match ts with
    | [] => .ok .init
    | _ :: _ => .error .grammar
  else if name = "PACK_BITS".toList then (bitsOperand ts).map Cmd.packBits
  else if name = "EXPAND_OUTPUTS".toList then (bitsOperand ts).map Cmd.expandOutputs
  else if name = "SIMPLE_BYTE_ARRAY".toList then (bitsOperand ts).map Cmd.simpleByteArray
  else if name = "PACK_CHANNEL_VALUES".toList then (valuesOperand ts).map Cmd.packChannelValues
  else if name = "APPLY_FRAME".toList then (bytesOperand ts).map Cmd.applyFrame
  else .error .grammar

/-- R115: the expansion of a line that has no destination variable, the pseudo-instructions among them. -/
def expandLine (lineNo : Nat) (name : List Char) (ts : List Tok) : Except AsmRefusal (List Stmt) :=
  let t : Var := .fresh lineNo
  let apply : Stmt := { dest := none, cmd := .applyFrame (.var t), stopOnErr := true }
  if name = "SHOW".toList then
    (bitsOperand ts).map fun s =>
      [{ dest := some t, cmd := .simpleByteArray s, stopOnErr := true }, apply]
  else if name = "SHOWV".toList then
    (valuesOperand ts).map fun s =>
      [{ dest := some t, cmd := .packChannelValues s, stopOnErr := true }, apply]
  else if name = "SAFE_BLANK".toList then
    match ts with
    | [] => .ok [{ dest := none, cmd := .init, stopOnErr := true }]
    | _ :: _ => .error .grammar
  else (command name ts).map fun c => [{ dest := none, cmd := c, stopOnErr := false }]

/-- R113 `line`. -/
def parseLine (lineNo : Nat) (line : List Char) : Except AsmRefusal (List Stmt) :=
  match scanLine line with
  | none => .error .grammar
  | some [] => .ok []
  | some (.word x :: .assign :: .word name :: ts) =>
    (command name ts).map fun c => [{ dest := some (.named x), cmd := c, stopOnErr := false }]
  | some (.word name :: ts) => expandLine lineNo name ts
  | some _ => .error .grammar

/-! ### Variable kinds (R113) -/

/-- The kind of payload a command's `Ok` response carries (R101). -/
inductive Kind where
  | noData
  | bits
  | bytes
deriving DecidableEq, Repr

/-- R101: the kind each command answers with. -/
def Cmd.kind : Cmd → Kind
  | .init => .noData
  | .packBits _ => .bytes
  | .expandOutputs _ => .bits
  | .simpleByteArray _ => .bytes
  | .packChannelValues _ => .bytes
  | .applyFrame _ => .noData

/-- The kinds of the variables assigned so far, latest first. -/
abbrev KindEnv := List (Var × Kind)

/-- R113: a variable assigned earlier has the wanted kind, that of its latest assignment (DESIGN CHOICE, log entry
23); one never assigned stops the program only when it is run. -/
def srcKindOk {α : Type} (env : KindEnv) (want : Option Kind) : Src α → Bool
  | .lit _ => true
  | .var x =>
    match env.find? fun p => p.1 == x with
    | none => true
    | some p => some p.2 == want

/-- R113: a `Bits` variable where bits are expected, a `Bytes` variable where bytes are; no command
answers with values. -/
def Cmd.kindOk (env : KindEnv) : Cmd → Bool
  | .init => true
  | .packBits s => srcKindOk env (some .bits) s
  | .expandOutputs s => srcKindOk env (some .bits) s
  | .simpleByteArray s => srcKindOk env (some .bits) s
  | .packChannelValues s => srcKindOk env none s
  | .applyFrame s => srcKindOk env (some .bytes) s

/-- Every statement's variable has the kind its command expects. -/
def kindsOk : KindEnv → List Stmt → Bool
  | _, [] => true
  | env, st :: rest =>
    st.cmd.kindOk env &&
      kindsOk (match st.dest with
        | some x => (x, st.cmd.kind) :: env
        | none => env) rest

/-! ### Programs -/

/-- The statements of numbered lines. -/
def parseLines : Nat → List (List Char) → Except AsmRefusal (List Stmt)
  | _, [] => .ok []
  | n, line :: rest =>
    match parseLine n line, parseLines (n + 1) rest with
    | .ok a, .ok b => .ok (a ++ b)
    | .error e, _ => .error e
    | .ok _, .error e => .error e

/-- R113-R115: assemble a program given as its lines, or refuse all of it. -/
def assemble (lines : List (List Char)) : Except AsmRefusal (List Stmt) :=
  match parseLines 0 lines with
  | .error e => .error e
  | .ok stmts => if kindsOk [] stmts then .ok stmts else .error .variableKind

end Sys2Proof.Machine.Asm
end

