-- ==== Sys2Proof/Machine/HostProgram.lean ====
section
/-! DEFINITION. A host program run against the block (R113, R115, R288, R289): the host issues one
command at a time as a binary frame (R116), waits for its response, and keeps payloads in variables the
block does not hold (R30). A function over `step`, not part of a step. -/

namespace Sys2Proof.Machine.Asm

/-- The assignments to host variables, latest first; `none` is the payload of a command that ended in `Err`. -/
abbrev VarEnv := List (Var × Option Payload)

/-- A program's progress: the host's variables, and the machine. -/
structure HostRun where
  vars : VarEnv
  st   : State
deriving DecidableEq, Repr

/-- How a program's run goes out. -/
inductive ProgramEnd where
  /-- Every statement was issued and answered (R288). -/
  | finished
  /-- R113, R115: the program stopped before a statement it cannot issue, or after a failed expansion. -/
  | stopped
  /-- R195: the block is stuck and the command is never answered. -/
  | stuck (r : Fault)
  /-- A step was refused. -/
  | refused (r : Refusal)
  /-- The machine it was given was already busy with other commands. -/
  | unanswered
deriving DecidableEq, Repr

/-- R113: the payload a variable names, that of an earlier command's `Ok` response. R113 does not say what a
variable assigned more than once names. DESIGN CHOICE (log entry 23): its latest assignment alone counts, so a
later command that ended in `Err` hides an earlier payload. -/
def VarEnv.payload (env : VarEnv) (x : Var) : Option Payload :=
  match env.find? fun p => p.1 == x with
  | some p => p.2
  | none => none

/-- The bits an operand stands for. -/
def bitsOfSrc (env : VarEnv) : Src (List Bit) → Option (List Bit)
  | .lit b => some b
  | .var x =>
    match env.payload x with
    | some (.bits b) => some b
    | some (.bytes _) => none
    | some .noData => none
    | none => none

/-- The bytes an operand stands for. -/
def bytesOfSrc (env : VarEnv) : Src (List Byte) → Option (List Byte)
  | .lit bs => some bs
  | .var x =>
    match env.payload x with
    | some (.bytes bs) => some bs
    | some (.bits _) => none
    | some .noData => none
    | none => none

/-- The values an operand stands for: no payload holds values. -/
def valuesOfSrc : Src (List Nat) → Option (List Nat)
  | .lit v => some v
  | .var _ => none

/-- The command term of a statement, `none` where it cannot be issued (R113). -/
def Cmd.instr (env : VarEnv) : Cmd → Option Instr
  | .init => some .init
  | .packBits s => (bitsOfSrc env s).map Instr.packBits
  | .expandOutputs s => (bitsOfSrc env s).map Instr.expandOutputs
  | .simpleByteArray s => (bitsOfSrc env s).map Instr.simpleByteArray
  | .packChannelValues s => (valuesOfSrc s).map Instr.packChannelValues
  | .applyFrame s => (bytesOfSrc env s).map Instr.applyFrame

/-- R116: the host puts a command at the port as its binary frame. -/
def issue (i : Instr) (s : State) : State := { s with port := s.port ++ [.frame (encode i)] }

/-- What became of an issued command. -/
inductive Served where
  | answered (s : State)
  | stuck (r : Fault) (s : State)
  | refused (r : Refusal) (s : State)
  | unanswered (s : State)
deriving DecidableEq, Repr

/-- Steps until the block is idle with nothing at the port (R288). -/
def serve : Nat → State → Served
  | 0, s => .unanswered s
  | n + 1, s =>
    match step s with
    | .next t => if t.cmd.isNone && t.port.isEmpty then .answered t else serve n t
    | .fault r => .stuck r s
    | .refused r => .refused r s

/-- The most steps one command takes: the eight micro-steps of APPLY_FRAME (R188). -/
def stepsPerCommand : Nat := 8

/-- R113: what the response leaves in the statement's variable. -/
def bindDest (dest : Option Var) (r : Option Response) (env : VarEnv) : VarEnv :=
  match dest with
  | none => env
  | some x =>
    match r with
    | some (.ok p) => (x, some p) :: env
    | some (.err _ _) => (x, none) :: env
    | none => env

/-- A response that stops an expansion (R115). -/
def isErr : Option Response → Bool
  | some (.err _ _) => true
  | some (.ok _) => false
  | none => false

/-- R288: run the statements one at a time. -/
def runProgram : List Stmt → HostRun → ProgramEnd × HostRun
  | [], h => (.finished, h)
  | st :: rest, h =>
    match st.cmd.instr h.vars with
    | none => (.stopped, h)
    | some i =>
      match serve stepsPerCommand (issue i h.st) with
      | .answered t =>
        let r := t.responses.getLast?
        let h' : HostRun := { vars := bindDest st.dest r h.vars, st := t }
        if st.stopOnErr && isErr r then (.stopped, h') else runProgram rest h'
      | .stuck r s => (.stuck r, { h with st := s })
      | .refused r s => (.refused r, { h with st := s })
      | .unanswered s => (.unanswered, { h with st := s })

end Sys2Proof.Machine.Asm
end

