-- ==== Sys2Proof/Machine/Flags.lean ====
section
/-! DEFINITION. The block has no flags or condition codes (R32): a command's outcome is its response.
This file codes an outcome: the status byte (R231) and the binary response (R110). -/

namespace Sys2Proof.Machine

/-- R231: the status byte of an error. -/
def ErrorStatus.code : ErrorStatus → Byte
  | .configurationError => 0x01#8
  | .transportError => 0x02#8
  | .inputShapeError => 0x03#8
  | .illegalCommand => 0x04#8
  | .notInitialized => 0x05#8

/-- R231, I26: what a received status byte means; `some none` is OK, and the reserved codes 0x06 to 0xFF
are refused. -/
def statusOfCode (c : Byte) : Option (Option ErrorStatus) :=
  match c.toNat with
  | 0 => some none
  | 1 => some (some .configurationError)
  | 2 => some (some .transportError)
  | 3 => some (some .inputShapeError)
  | 4 => some (some .illegalCommand)
  | 5 => some (some .notInitialized)
  | _ => none

/-- R110: the element count of a payload: bits for `Bits`, bytes for `Bytes`. -/
def Payload.count : Payload → Nat
  | .noData => 0
  | .bits b => b.length
  | .bytes bs => bs.length

/-- R110: the payload's bytes; bits are packed MSB first, with zeros in the unused low bits. -/
def Payload.toBytes : Payload → List Byte
  | .noData => []
  | .bits b => pack (padToByte b)
  | .bytes bs => bs

/-- R110: the binary response: status, then the count or the detail; an error has no payload. -/
def Response.toFrame : Response → Frame
  | .ok p => { header := headerOf 0x00#8 p.count, payload := p.toBytes }
  | .err e detail => { header := headerOf e.code detail, payload := [] }

/-- R110, R103: the response as it travels. -/
def Response.toBytes (r : Response) : List Byte := r.toFrame.toBytes

end Sys2Proof.Machine
end

