-- ==== Sys2Proof/Safety.lean ====
section
/-! DEFINITION. What claims about runs are stated in: the invariant of the block and its chips, the
order of the port's events, and the end of a run (R288). -/

namespace Sys2Proof.Machine

/-- R45: no line driven yet. -/
def LineBank.undriven : LineBank (Option Bit) :=
  { gsclk := none, blank := none, vprg := none, xlat := none }

/-- The levels the chips see, as the block's register holds them. -/
def LineBank.driven (lvl : LineBank Bit) : LineBank (Option Bit) :=
  { gsclk := some lvl.gsclk, blank := some lvl.blank, vprg := some lvl.vprg, xlat := some lvl.xlat }

/-- R37, R198: the levels (GSCLK, BLANK, VPRG, XLAT) in each phase, once an INIT has succeeded. Before
step 2 BLANK is 1 after an INIT and 0 after an APPLY_FRAME. -/
def Phase.levels (p : Phase) (lvl : LineBank Bit) : Prop :=
  match p with
  | .idle => lvl.gsclk = false ∧ lvl.vprg = false ∧ lvl.xlat = false
  | .transmitting => lvl.gsclk = false ∧ lvl.vprg = false ∧ lvl.xlat = false
  | .blanked => lvl = { gsclk := false, blank := true, vprg := false, xlat := false }
  | .latchHigh => lvl = { gsclk := false, blank := true, vprg := false, xlat := true }
  | .latched => lvl = { gsclk := false, blank := true, vprg := false, xlat := false }
  | .unblanked => lvl = { gsclk := false, blank := false, vprg := false, xlat := false }
  | .clockHigh => lvl = { gsclk := true, blank := false, vprg := false, xlat := false }
  | .clocked => lvl = { gsclk := false, blank := false, vprg := false, xlat := false }

/-- R80: the registers of a chain of `n` chips have their sizes, and so has the shift register as it was
before a transmission in flight. -/
def Observer.sized (o : Observer) (n : Nat) : Prop :=
  o.sr.length = 192 * n ∧ o.gs.length = 16 * n ∧ o.cnt.length = n ∧
    ∀ f, o.flight = some f → f.before.length = 192 * n

/-- R190: the levels an INIT in progress has written so far. -/
def InitStage.written : InitStage → List (Line × Bit)
  | .start => []
  | .gsclkLow => [(.gsclk, false)]
  | .blankHigh => [(.gsclk, false), (.blank, true)]
  | .vprgLow => [(.gsclk, false), (.blank, true), (.vprg, false)]
  | .xlatLow => [(.gsclk, false), (.blank, true), (.vprg, false), (.xlat, false)]
  | .configured => [(.gsclk, false), (.blank, true), (.vprg, false), (.xlat, false)]

/-- R33, R45: the control lines where only an INIT in progress has written them. -/
def InitStage.lines (st : InitStage) : LineBank (Option Bit) :=
  st.written.foldl (fun b p => b.set p.1 (some p.2)) LineBank.undriven

/-- What every run keeps. -/
structure State.Inv (s : State) : Prop where
  /-- R36, R45, R240: without a successful INIT nothing has been driven or configured, but for what an INIT
  in progress has done. -/
  unbound : s.bound = false → s.line = s.initStage.lines ∧
    s.serialCfg = (if s.initStage = .configured then some SerialCfg.standard else none) ∧
    s.phase = .idle
  /-- R35: once bound, the transport is configured, and with the only legal value. -/
  configured : s.bound = true → s.serialCfg = some SerialCfg.standard
  /-- R43, R189: with the slot empty the block is Idle and no INIT has begun. -/
  free : s.cmd = none → s.phase = .idle ∧ s.initStage = .start
  /-- R37, R193: between steps the slot holds an INIT in progress, within Idle and with a valid configuration,
  or an APPLY_FRAME in progress, outside Idle. -/
  busy : ∀ i, s.cmd = some i →
    (i = .init ∧ s.phase = .idle ∧ s.initStage ≠ .start ∧ s.params.configValid = true) ∨
    ∃ bs, i = .applyFrame bs ∧ s.phase ≠ .idle ∧ s.initStage = .start ∧
      (s.phase = .transmitting → s.pending = bs)
  /-- R40: the transport owns bytes only while Transmitting. -/
  notPending : s.phase ≠ .transmitting → s.pending = []
  /-- R85, R88, R197: the observer has not refused; it sees the levels an INIT in progress has written, and
  once bound those the block drives, which are the phase's (R37, R198), VPRG being 0. -/
  observed : ∃ o, s.obs = some o ∧ o.sized s.params.nChips ∧
    (o.flight.isSome = true ↔ s.phase = .transmitting) ∧
    (∀ p ∈ s.initStage.written, o.lvl.get p.1 = p.2) ∧
    (s.bound = true → s.line = LineBank.driven o.lvl ∧ s.phase.levels o.lvl)

/-! ### The order of events (R73, R74, R199) -/

/-- R190: the events of an INIT; their order is the spec's decision D13 (log entry 20). -/
def initEvents : List Event :=
  [.setLine .gsclk false, .setLine .blank true, .setLine .vprg false, .setLine .xlat false,
    .configureSerial SerialCfg.standard]

/-- R199: the events of a successful APPLY_FRAME. -/
def applyFrameEvents (bs : List Byte) : List Event :=
  [.transmit bs, .transportAnswer .ok, .setLine .blank true, .setLine .xlat true,
    .setLine .xlat false, .setLine .blank false, .setLine .gsclk true, .setLine .gsclk false]

/-- What a command that has ended left on the trace, where it left anything. -/
inductive Transaction where
  | init
  | applied (bs : List Byte)
  | failed (bs : List Byte)
deriving DecidableEq, Repr

/-- R190, R199, R194: the events of an ended command. -/
def Transaction.events : Transaction → List Event
  | .init => initEvents
  | .applied bs => applyFrameEvents bs
  | .failed bs => [.transmit bs, .transportAnswer .err]

/-- R188: how many of its events an APPLY_FRAME has emitted on reaching a phase. -/
def Phase.emitted : Phase → Nat
  | .idle => 0
  | .transmitting => 1
  | .blanked => 3
  | .latchHigh => 4
  | .latched => 5
  | .unblanked => 6
  | .clockHigh => 7
  | .clocked => 8

/-- R13, R190: how many of its events an INIT has emitted on reaching a stage. -/
def InitStage.emitted : InitStage → Nat
  | .start => 0
  | .gsclkLow => 1
  | .blankHigh => 2
  | .vprgLow => 3
  | .xlatLow => 4
  | .configured => 5

/-- R73 c, R74: the trace is the whole events of the ended commands, one after the other, and then the
first events of the command in progress, in its fixed order. An APPLY_FRAME has events only outside Idle and
an INIT only past `start`, so one of the two last parts is empty (`State.Inv`). -/
def State.Ordered (s : State) : Prop :=
  ∃ (done : List Transaction) (bs : List Byte),
    (s.phase ≠ .idle → s.cmd = some (.applyFrame bs)) ∧
      s.trace = done.flatMap Transaction.events ++ (applyFrameEvents bs).take s.phase.emitted ++
        initEvents.take s.initStage.emitted

/-- The level last written to a line, as a trace tells it. -/
def lastLevel (l : Line) (tr : List Event) : Option Bit :=
  tr.foldl (fun acc e =>
    match e with
    | .setLine l' v => if l' = l then some v else acc
    | .configureSerial _ => acc
    | .transmit _ => acc
    | .transportAnswer _ => acc) none

/-! ### Runs of one command (R13, R188) -/

/-- `n` micro-steps of one command, by its meaning alone (R13: one command may take several). -/
def execTimes (i : Instr) : Nat → State → Host.Outcome State Fault Refusal
  | 0, s => .next s
  | n + 1, s =>
    match exec i s with
    | .next t => execTimes i n t
    | .fault r => .fault r
    | .refused r => .refused r

/-! ### The end of a run (R288) -/

/-- R288: nothing is in progress and the host has no further command at the port. -/
def State.runEnded (s : State) : Bool :=
  s.cmd.isNone && s.phase == .idle && s.pending.isEmpty && s.port.isEmpty

/-- R44: the block's state tuple. -/
structure BlockTuple where
  line      : LineBank (Option Bit)
  serialCfg : Option SerialCfg
  bound     : Bool
  phase     : Phase
  pending   : List Byte
  cmd       : Option Instr
  trace     : List Event
deriving DecidableEq, Repr

/-- R44. -/
def State.tuple (s : State) : BlockTuple :=
  { line := s.line, serialCfg := s.serialCfg, bound := s.bound, phase := s.phase,
    pending := s.pending, cmd := s.cmd, trace := s.trace }

/-- R288: the final observation of a run. -/
structure Observation where
  responses : List Response
  trace     : List Event
  block     : BlockTuple
  observer  : Option Observer
deriving DecidableEq, Repr

/-- R288: what a run's final state shows; a run that has not ended shows nothing. -/
def State.observation (s : State) : Option Observation :=
  if s.runEnded then
    some { responses := s.responses, trace := s.trace, block := s.tuple, observer := s.obs }
  else none

end Sys2Proof.Machine
end

