-- ==== Sys2Proof/WellFormed.lean ====
section
/-! DEFINITION. Which command terms the binary layer can carry. An abstract term is always well formed
(R235; DESIGN CHOICE, log entry 14) and has no length limit (R100); "well formed" here means that it has an
encoding: its count fits LEN (R105), each Channel Value fits 16 bits (R107, R114), its response fits MAX_LEN
(R109). -/

namespace Sys2Proof

/-- R107, R114: every Channel Value element fits its 16-bit container. -/
def Instr.valuesFit : Instr → Bool
  | .init => true
  | .packBits _ => true
  | .expandOutputs _ => true
  | .simpleByteArray _ => true
  | .packChannelValues v => v.all (· ≤ 65535)
  | .applyFrame _ => true

/-- R105, R107, R109: the binary layer carries the command and its response. -/
def Instr.wellFormed (i : Instr) : Bool :=
  decide (i.count ≤ Config.maxLen) && decide (i.opcode.resultCount i.count ≤ Config.maxLen) &&
    i.valuesFit

/-- The command has a binary encoding. -/
abbrev Instr.WellFormed (i : Instr) : Prop := i.wellFormed = true

end Sys2Proof
end

