-- ==== Sys2Proof/Certificates/Slice0/Obligations.lean ====
section
/-! DEFINITION. The statements for the provers, each from the rules its docstring cites. -/

open Sys2Proof Sys2Proof.Machine

/-! ### Independent readings of the spec's tables, for the statements only -/

/-- R104: payload bytes by opcode number. -/
def Sys2Proof.SpecTable.payloadBytes (opc n : Nat) : Nat :=
  if opc = 2 ∨ opc = 3 ∨ opc = 4 then (n + 7) / 8
  else if opc = 5 then 2 * n
  else if opc = 6 then n
  else 0

/-- R109: `result_count`. -/
def Sys2Proof.SpecTable.resultCount (opc n : Nat) : Nat :=
  if opc = 2 then n / 8
  else if opc = 3 then 12 * n
  else if opc = 4 ∨ opc = 5 then 12 * n / 8
  else 0

/-- R106: element `i` is `Pay[floor(i/8)][7 - (i mod 8)]`. -/
def Sys2Proof.SpecTable.bitElements (n : Nat) (pay : List Byte) : List Bit :=
  (List.range n).map fun i => (pay.getD (i / 8) 0#8).getLsbD (7 - i % 8)

/-- R107: element `i` is `Pay[2i] * 256 + Pay[2i+1]`. -/
def Sys2Proof.SpecTable.valueElements (n : Nat) (pay : List Byte) : List Nat :=
  (List.range n).map fun i => (pay.getD (2 * i) 0#8).toNat * 256 + (pay.getD (2 * i + 1) 0#8).toNat

/-- R109: the decoding algorithm, on the header's two fields as numbers. -/
def Sys2Proof.SpecTable.decode (opc len : Nat) (pay : List Byte) : Except IllegalCommand Instr :=
  if opc = 0 ∨ 7 ≤ opc then .error .reservedOpcode
  else if opc = 1 ∧ len ≠ 0 then .error .initLength
  else if pay.length ≠ Sys2Proof.SpecTable.payloadBytes opc len then .error .payloadLength
  else if Sys2Proof.SpecTable.resultCount opc len > 16777215 then .error .responseTooLong
  else if opc = 1 then .ok .init
  else if opc = 2 then .ok (.packBits (Sys2Proof.SpecTable.bitElements len pay))
  else if opc = 3 then .ok (.expandOutputs (Sys2Proof.SpecTable.bitElements len pay))
  else if opc = 4 then .ok (.simpleByteArray (Sys2Proof.SpecTable.bitElements len pay))
  else if opc = 5 then .ok (.packChannelValues (Sys2Proof.SpecTable.valueElements len pay))
  else .ok (.applyFrame pay)

/-- R231: the (status, detail) pairs of the table. -/
def Sys2Proof.SpecTable.errors : List (ErrorStatus × Nat) :=
  [(.configurationError, 0), (.transportError, 0), (.inputShapeError, 1), (.inputShapeError, 2),
    (.inputShapeError, 3), (.illegalCommand, 1), (.illegalCommand, 2), (.illegalCommand, 3),
    (.illegalCommand, 4), (.notInitialized, 0)]

/-- R188: the rows' phases, and Idle kept by every other command. -/
def Sys2Proof.SpecTable.transitions : List (Phase × Phase) :=
  [(.idle, .idle), (.idle, .transmitting), (.transmitting, .blanked), (.transmitting, .idle),
    (.blanked, .latchHigh), (.latchHigh, .latched), (.latched, .unblanked), (.unblanked, .clockHigh),
    (.clockHigh, .clocked), (.clocked, .idle)]

/-! ### The binary command layer -/

/-- R102-R108 (the spec's decisions D3-D5): a command that has an encoding is read back whole. -/
def Obligations.DecodeReadsBackEncode : Prop :=
  ∀ i : Instr, i.WellFormed → decode (encode i) = .ok i

/-- R109 (the spec's decisions D4, D7, D34), with R106-R108 for the operands: the decoder is the algorithm
of the spec. -/
def Obligations.DecoderIsTheSpecAlgorithm : Prop :=
  ∀ f : Frame,
    decode f =
      Sys2Proof.SpecTable.decode (f.header.toNat / 2 ^ 24) (f.header.toNat % 2 ^ 24) f.payload

/-- R105-R109 (D3-D5): what the decoder accepts has an encoding, with the same header, and the same
payload unless the operand is a bit list that leaves pad bits. -/
def Obligations.DecodedCommandReencodes : Prop :=
  ∀ (f : Frame) (i : Instr), decode f = .ok i →
    i.WellFormed ∧ (encode i).header = f.header ∧
      (f.len % 8 = 0 ∨ 5 ≤ f.opc.toNat → (encode i).payload = f.payload)

/-- R106 (D5): the pad bits of the last payload byte do not matter. -/
def Obligations.PadBitsDoNotMatter : Prop :=
  ∀ (f g : Frame), f.header = g.header → f.payload.length = g.payload.length →
    2 ≤ f.opc.toNat → f.opc.toNat ≤ 4 →
    (∀ i, i < f.len →
      (f.payload.getD (i / 8) 0#8).getLsbD (7 - i % 8) =
        (g.payload.getD (i / 8) 0#8).getLsbD (7 - i % 8)) →
    decode f = decode g

/-- R103 (D3): header bytes and value elements, most significant byte first. -/
def Obligations.HeaderTravelsBigEndian : Prop :=
  (∀ (b0 b1 b2 b3 : Byte) (pay : List Byte),
    ∃ f : Frame, Frame.ofBytes (b0 :: b1 :: b2 :: b3 :: pay) = some f ∧
      f.opc = b0 ∧ f.len = b1.toNat * 65536 + b2.toNat * 256 + b3.toNat ∧ f.payload = pay ∧
      f.toBytes = b0 :: b1 :: b2 :: b3 :: pay) ∧
  (∀ (hi lo : Byte) (rest : List Byte),
    valueOperand (hi :: lo :: rest) = (hi.toNat * 256 + lo.toNat) :: valueOperand rest)

/-- R116 (derived from R102-R108): the spec's own five examples, as bytes. -/
def Obligations.SpecExampleWordsDecode : Prop :=
  decodeBytes [0x01#8, 0x00#8, 0x00#8, 0x00#8] = .ok .init ∧
  decodeBytes [0x02#8, 0x00#8, 0x00#8, 0x08#8, 0xB1#8] =
    .ok (.packBits [true, false, true, true, false, false, false, true]) ∧
  decodeBytes [0x04#8, 0x00#8, 0x00#8, 0x10#8, 0xA0#8, 0x00#8] =
    .ok (.simpleByteArray ([true, false, true] ++ List.replicate 13 false)) ∧
  decodeBytes [0x05#8, 0x00#8, 0x00#8, 0x02#8, 0x0F#8, 0xFF#8, 0x00#8, 0x01#8] =
    .ok (.packChannelValues [4095, 1]) ∧
  decodeBytes ([0x06#8, 0x00#8, 0x00#8, 0x18#8] ++ List.replicate 24 0x00#8) =
    .ok (.applyFrame (List.replicate 24 0x00#8))

/-! ### Steps -/

/-- R43, R189 (D18; the idle wait and the port are log entry 1): with nothing in progress the oldest
command at the port is accepted and run, as a frame or as a term; with a command in progress that command
is run; with nothing at the port the block waits. -/
def Obligations.StepRunsDecodedCommand : Prop :=
  (∀ (s : State) (f : Frame) (rest : List PortItem) (i : Instr),
    s.cmd = none → s.port = .frame f :: rest → decode f = .ok i →
    step s = exec i { s with port := rest, cmd := some i }) ∧
  (∀ (s : State) (i : Instr) (rest : List PortItem),
    s.cmd = none → s.port = .term i :: rest → step s = exec i { s with port := rest, cmd := some i }) ∧
  (∀ (s : State) (i : Instr), s.cmd = some i → step s = exec i s) ∧
  (∀ s : State, s.cmd = none → s.port = [] → step s = .next s)

/-- The words placed by `withFetchWord` are what the next step runs (log entry 1). -/
def Obligations.PlacedWordRunsNext : Prop :=
  ∀ (s : State) (nbits w : Nat) (i : Instr), decodeTableWord nbits w = some i →
    step (s.withFetchWord nbits w) =
      exec i { s with cmd := some i, phase := .idle, pending := [], initStage := .start }

/-- R235 (D4, D34): a rejected command only gets its response, with the detail of R109 and R231 (D7). -/
def Obligations.RejectedCommandOnlyAnswers : Prop :=
  (∀ (s : State) (f : Frame) (rest : List PortItem) (e : IllegalCommand),
    s.cmd = none → s.phase = .idle → s.port = .frame f :: rest → decode f = .error e →
    step s = .next { s with
      port := rest
      responses := s.responses ++ [.err .illegalCommand e.detail] }) ∧
  IllegalCommand.reservedOpcode.detail = 1 ∧ IllegalCommand.initLength.detail = 2 ∧
  IllegalCommand.payloadLength.detail = 3 ∧ IllegalCommand.responseTooLong.detail = 4

/-- R189 (D18): while a command is in progress the port holds the commands it has. -/
def Obligations.OverlappingCommandIsHeld : Prop :=
  ∀ (s t : State) (i : Instr), s.cmd = some i → step s = .next t → t.port = s.port

/-- R101: a step adds no response or one; with one the command slot is free, with none the block has not
moved or an INIT or an APPLY_FRAME is in progress. -/
def Obligations.OneResponseEndsACommand : Prop :=
  ∀ s t : State, step s = .next t →
    (∃ r, t.responses = s.responses ++ [r] ∧ t.cmd = none) ∨
    (t.responses = s.responses ∧
      (t = s ∨ t.cmd = some .init ∨ ∃ bs, t.cmd = some (.applyFrame bs)))

/-- R231 (D7): an error response is one of the table's. -/
def Obligations.OnlyListedErrorsAreAnswered : Prop :=
  ∀ (s t : State) (e : ErrorStatus) (d : Nat), step s = .next t →
    t.responses = s.responses ++ [.err e d] → (e, d) ∈ Sys2Proof.SpecTable.errors

/-- R240 (D27): what an error leaves; the only events of a failed command are those of its transmission. -/
def Obligations.ErrorWritesNothingElse : Prop :=
  ∀ (s t : State) (e : ErrorStatus) (d : Nat), s.Inv → step s = .next t →
    t.responses = s.responses ++ [.err e d] →
    t.cmd = none ∧ t.phase = .idle ∧ t.pending = [] ∧
    t.line = s.line ∧ t.serialCfg = s.serialCfg ∧ t.bound = s.bound ∧
    (e ≠ .transportError → t.trace = s.trace ∧ t.obs = s.obs) ∧
    (e = .transportError → t.trace = s.trace ++ [.transportAnswer .err])

/-- R41, R88: the trace only grows, and the chips see exactly the events it gains. -/
def Obligations.EventsReachTraceAndChips : Prop :=
  ∀ s t : State, step s = .next t →
    ∃ evs, t.trace = s.trace ++ evs ∧ t.obs = s.obs.bind fun o => o.seeAll s.serialCfg evs

/-! ### The Bit Packer -/

/-- R151 (derived from R142, R145): packing and unpacking are inverse. -/
def Obligations.PackAndUnpackAreInverse : Prop :=
  (∀ b : List Bit, b.length % 8 = 0 → unpack (pack b) = b) ∧
  (∀ bs : List Byte, pack (unpack bs) = bs)

/-- R62: the first bit of each group of eight is bit 7 of its byte, the eighth bit 0; byte `j` is the number
the eight bits read as. -/
def Obligations.FirstBitIsBitSeven : Prop :=
  ∀ (b : List Bit) (j k : Nat), 8 * j + 8 ≤ b.length → k < 8 →
    ∃ byte, (pack b)[j]? = some byte ∧ byte.toNat = val (slice b (8 * j) (8 * j + 8)) ∧
      b[8 * j + k]? = some (byte.getLsbD (7 - k))

/-- R63, R64: the channels enter the stream last first, each with its twelve bits most significant bit first;
the flags of an expansion enter last first too. -/
def Obligations.ChannelsEnterLastFirst : Prop :=
  (∀ (f : List Nat) (i v : Nat), f[i]? = some v → v ≤ 4095 →
    slice (stream f) (12 * (f.length - 1 - i)) (12 * (f.length - 1 - i) + 12) =
      (List.range 12).map fun k => v.testBit (11 - k)) ∧
  (∀ (f : List Bit) (i : Nat) (b : Bit), f[i]? = some b →
    slice (expand f) (12 * (f.length - 1 - i)) (12 * (f.length - 1 - i) + 12) =
      List.replicate 12 b)

/-- R65 (which the spec derives from R63, R64): the position of every bit of a Frame in the stream, both
directions. -/
def Obligations.StreamPositionOfEachBit : Prop :=
  ∀ f : List Nat,
    (stream f).length = 12 * f.length ∧
    (∀ t, t < 12 * f.length →
      (stream f)[t]? = some ((f.getD (f.length - 1 - t / 12) 0).testBit (11 - t % 12))) ∧
    (∀ i b, i < f.length → b < 12 →
      (stream f)[12 * (f.length - 1 - i) + (11 - b)]? = some ((f.getD i 0).testBit b))

/-- R66 (which the spec derives from R62, R65): two consecutive values fill three bytes. -/
def Obligations.PairOfValuesFillsThreeBytes : Prop :=
  ∀ (f : List Nat) (m a c : Nat), 2 * m + 2 ≤ f.length → (∀ v ∈ f, v ≤ 4095) →
    f[f.length - 1 - 2 * m]? = some a → f[f.length - 2 - 2 * m]? = some c →
    (f.length % 2 = 0 → 2 * (pack (stream f)).length = 3 * f.length) ∧
    (pack (stream f))[3 * m]? = some (BitVec.ofNat 8 (a / 16)) ∧
    (pack (stream f))[3 * m + 1]? = some (BitVec.ofNat 8 (a % 16 * 16 + c / 256)) ∧
    (pack (stream f))[3 * m + 2]? = some (BitVec.ofNat 8 (c % 256))

/-- R153 (derived from R146-R149): the lengths of every accepted result. -/
def Obligations.PackedFrameLengths : Prop :=
  ∀ N : Nat, 1 ≤ N →
    (∀ f : List Bit, f.length = 16 * N →
      (expand f).length = 192 * N ∧ 192 * N % 8 = 0 ∧
      ∃ bs, simpleByteArray f = .ok (.bytes bs) ∧ bs.length = 24 * N) ∧
    (∀ v : List Nat, v.length = 16 * N → (∀ x ∈ v, x ≤ 4095) →
      ∃ bs, packChannelValues v = .ok (.bytes bs) ∧ bs.length = 24 * N)

/-- R150 (derived from R146-R149): on and off are 4095 and 0. -/
def Obligations.OnOffIsASpecialCase : Prop :=
  ∀ f : List Bit, f.length ≠ 0 → f.length % 16 = 0 →
    ∃ bs, simpleByteArray f = .ok (.bytes bs) ∧
      packChannelValues (f.map fun b => if b then 4095 else 0) = .ok (.bytes bs)

/-- R152 (derived from R145-R149): an accepted Frame is read back from its packed bytes. -/
def Obligations.PackedFrameUnpacks : Prop :=
  ∀ v : List Nat, v.length ≠ 0 → v.length % 16 = 0 → (∀ x ∈ v, x ≤ 4095) →
    ∃ bs, packChannelValues v = .ok (.bytes bs) ∧ unpackFrame bs = v

/-- R143, R144 (the spec's decision D8, log entry 6), R140: PACK_BITS, its opcode and count, and that it completes with its
response and nothing else. -/
def Obligations.PackBitsAnswers : Prop :=
  ∀ (b : List Bit) (s : State), s.phase = .idle →
    (encode (.packBits b)).header = headerOf 0x02#8 b.length ∧
    exec (.packBits b) s = .next { s with
      cmd := none
      responses := s.responses ++
        [if b.length % 8 = 0 then .ok (.bytes (pack b))
          else if s.params.legacyTruncate then .ok (.bytes (pack (b.take (8 * (b.length / 8)))))
          else .err .inputShapeError 1] }

/-- R146 (length 0: the spec's decision D9): EXPAND_OUTPUTS, its opcode and count, and that it completes
with its response and nothing else. -/
def Obligations.ExpandOutputsAnswers : Prop :=
  ∀ (f : List Bit) (s : State), s.phase = .idle →
    (encode (.expandOutputs f)).header = headerOf 0x03#8 f.length ∧
    exec (.expandOutputs f) s = .next { s with
      cmd := none
      responses := s.responses ++
        [if f.length = 0 ∨ f.length % 16 ≠ 0 then .err .inputShapeError 2
          else .ok (.bits (f.reverse.flatMap fun b => List.replicate 12 b))] }

/-- R147 (length 0: the spec's decision D9): SIMPLE_BYTE_ARRAY, its opcode and count, and that it completes
with its response and nothing else. -/
def Obligations.SimpleByteArrayAnswers : Prop :=
  ∀ (f : List Bit) (s : State), s.phase = .idle →
    (encode (.simpleByteArray f)).header = headerOf 0x04#8 f.length ∧
    exec (.simpleByteArray f) s = .next { s with
      cmd := none
      responses := s.responses ++
        [if f.length = 0 ∨ f.length % 16 ≠ 0 then .err .inputShapeError 2
          else .ok (.bytes (pack (expand f)))] }

/-- R149 (the range check: the spec's decision D10): PACK_CHANNEL_VALUES, its opcode and count, and that it
completes with its response and nothing else. -/
def Obligations.PackChannelValuesAnswers : Prop :=
  ∀ (v : List Nat) (s : State), s.phase = .idle →
    (encode (.packChannelValues v)).header = headerOf 0x05#8 v.length ∧
    exec (.packChannelValues v) s = .next { s with
      cmd := none
      responses := s.responses ++
        [if v.length = 0 ∨ v.length % 16 ≠ 0 then .err .inputShapeError 2
          else if ∃ x ∈ v, 4095 < x then .err .inputShapeError 3
          else .ok (.bytes (pack (stream v)))] }

/-- R140 (D40): a Bit Packer command reads nothing of the block: two idle states whose builds have the same
LEGACY_TRUNCATE get the same response, and only the slot and the responses change. -/
def Obligations.BitPackerReadsNoBlockState : Prop :=
  ∀ i : Instr, i ≠ .init → (∀ bs, i ≠ .applyFrame bs) →
    ∀ s s' : State, s.phase = .idle → s'.phase = .idle →
      s.params.legacyTruncate = s'.params.legacyTruncate →
      ∃ r, exec i s = .next { s with cmd := none, responses := s.responses ++ [r] } ∧
        exec i s' = .next { s' with cmd := none, responses := s'.responses ++ [r] }

/-! ### The port's primitive -/

/-- R181, R88 (which the spec derives from R41, R85-R87): `SetLine` drives one line and emits its event, which the
chips see: their level follows and the edge acts by R85-R87, a latch, a count, or the observer's refusal (`none`:
DESIGN CHOICE, log entry 8). Nothing else changes. -/
def Obligations.SetLineDrivesAndEmits : Prop :=
  ∀ (l : Line) (v : Bit) (s : State),
    (s.setLine l v).line.get l = some v ∧
    (∀ k, k ≠ l → (s.setLine l v).line.get k = s.line.get k) ∧
    s.setLine l v = { s with
      line := (s.setLine l v).line
      trace := s.trace ++ [.setLine l v]
      obs := s.obs.bind fun o => o.seeLine l v }

/-! ### INIT -/

/-- R13, R190, R191 (D13 for the order, D14; the micro-steps are log entry 2): INIT with a valid
configuration, bound or not: each micro-step, with one event or, the last, none; and the whole effect of the
six. -/
def Obligations.InitConstructs : Prop :=
  ∀ s : State,
    (s.initStage = .start → s.params.configValid = true →
      exec .init s = .next { s with
        initStage := .gsclkLow
        line := { s.line with gsclk := some false }
        trace := s.trace ++ [.setLine .gsclk false]
        obs := s.obs.bind fun o => o.seeLine .gsclk false }) ∧
    (s.initStage = .gsclkLow →
      exec .init s = .next { s with
        initStage := .blankHigh
        line := { s.line with blank := some true }
        trace := s.trace ++ [.setLine .blank true]
        obs := s.obs.bind fun o => o.seeLine .blank true }) ∧
    (s.initStage = .blankHigh →
      exec .init s = .next { s with
        initStage := .vprgLow
        line := { s.line with vprg := some false }
        trace := s.trace ++ [.setLine .vprg false]
        obs := s.obs.bind fun o => o.seeLine .vprg false }) ∧
    (s.initStage = .vprgLow →
      exec .init s = .next { s with
        initStage := .xlatLow
        line := { s.line with xlat := some false }
        trace := s.trace ++ [.setLine .xlat false]
        obs := s.obs.bind fun o => o.seeLine .xlat false }) ∧
    (s.initStage = .xlatLow →
      exec .init s = .next { s with
        initStage := .configured
        serialCfg := some { unitBits := 8, order := .msb, rateHz := 10000000 }
        trace := s.trace ++
          [.configureSerial { unitBits := 8, order := .msb, rateHz := 10000000 }] }) ∧
    (s.initStage = .configured →
      exec .init s = .next { s with
        initStage := .start
        bound := true
        cmd := none
        responses := s.responses ++ [.ok .noData] }) ∧
    (s.initStage = .start → s.params.configValid = true →
      execTimes .init 6 s = .next { s with
        line := { gsclk := some false, blank := some true, vprg := some false, xlat := some false }
        serialCfg := some { unitBits := 8, order := .msb, rateHz := 10000000 }
        bound := true
        cmd := none
        trace := s.trace ++
          [.setLine .gsclk false, .setLine .blank true, .setLine .vprg false, .setLine .xlat false,
            .configureSerial { unitBits := 8, order := .msb, rateHz := 10000000 }]
        responses := s.responses ++ [.ok .noData]
        obs := s.obs.bind fun o => o.seeAll s.serialCfg initEvents })

/-- R232 (D13): INIT with an invalid configuration changes nothing. -/
def Obligations.InitRejectsBadConfiguration : Prop :=
  ∀ s : State, s.params.configValid = false → s.phase = .idle → s.initStage = .start →
    exec .init s = .next { s with
      cmd := none
      responses := s.responses ++ [.err .configurationError 0] }

/-- R272, R273 (D13): what INIT does at the chips: they latch only if XLAT was 1; shift register and counts
stay; an INIT right after an INIT changes nothing there. -/
def Obligations.InitAtTheChips : Prop :=
  ∀ (s : State) (o : Observer), s.params.configValid = true → s.initStage = .start → s.obs = some o →
    ∃ t o', execTimes .init 6 s = .next t ∧ t.obs = some o' ∧
      o'.sr = o.sr ∧ o'.cnt = o.cnt ∧
      o'.gs = (if o.lvl.xlat then latch o.sr else o.gs) ∧
      o'.lvl = { gsclk := false, blank := true, vprg := false, xlat := false } ∧
      (o.lvl = { gsclk := false, blank := true, vprg := false, xlat := false } → o' = o)

/-! ### APPLY_FRAME -/

/-- R236 (D15): before a successful INIT. -/
def Obligations.ApplyFrameNeedsInit : Prop :=
  ∀ (bs : List Byte) (s : State), s.phase = .idle → s.bound = false →
    exec (.applyFrame bs) s = .next { s with
      cmd := none
      responses := s.responses ++ [.err .notInitialized 0] }

/-- R188: the micro-steps, a row each, and that no command makes any other transition. The transport's answer
is known or drawn and then used up (log entry 3), the hang row is a fault (log entry 4), and the clause for an
unbound block is R236's (D15). The row of `Ok` has two events by R188 and R193 (log entry 31: DEDUCED against the
letter of R13). -/
def Obligations.ApplyFrameMicroSteps : Prop :=
  ∀ (bs : List Byte) (s : State),
    (s.phase = .idle → s.bound = true →
      exec (.applyFrame bs) s = .next { s with
        pending := bs
        phase := .transmitting
        trace := s.trace ++ [.transmit bs]
        obs := s.obs.bind fun o => o.see s.serialCfg (.transmit bs) }) ∧
    (s.phase = .transmitting → s.transportDraw = .ok →
      exec (.applyFrame bs) s = .next { s.takeDraw with
        pending := []
        phase := .blanked
        line := { s.line with blank := some true }
        trace := s.trace ++ [.transportAnswer .ok, .setLine .blank true]
        obs := s.obs.bind fun o =>
          o.seeAll s.serialCfg [.transportAnswer .ok, .setLine .blank true] }) ∧
    (s.phase = .transmitting → s.transportDraw = .err →
      exec (.applyFrame bs) s = .next { s.takeDraw with
        pending := []
        phase := .idle
        cmd := none
        responses := s.responses ++ [.err .transportError 0]
        trace := s.trace ++ [.transportAnswer .err]
        obs := s.obs.bind fun o => o.see s.serialCfg (.transportAnswer .err) }) ∧
    (s.phase = .transmitting → s.transportDraw = .hang →
      exec (.applyFrame bs) s = .fault .transportHung) ∧
    (s.phase = .blanked →
      exec (.applyFrame bs) s = .next { s with
        phase := .latchHigh
        line := { s.line with xlat := some true }
        trace := s.trace ++ [.setLine .xlat true]
        obs := s.obs.bind fun o => o.seeLine .xlat true }) ∧
    (s.phase = .latchHigh →
      exec (.applyFrame bs) s = .next { s with
        phase := .latched
        line := { s.line with xlat := some false }
        trace := s.trace ++ [.setLine .xlat false]
        obs := s.obs.bind fun o => o.seeLine .xlat false }) ∧
    (s.phase = .latched →
      exec (.applyFrame bs) s = .next { s with
        phase := .unblanked
        line := { s.line with blank := some false }
        trace := s.trace ++ [.setLine .blank false]
        obs := s.obs.bind fun o => o.seeLine .blank false }) ∧
    (s.phase = .unblanked →
      exec (.applyFrame bs) s = .next { s with
        phase := .clockHigh
        line := { s.line with gsclk := some true }
        trace := s.trace ++ [.setLine .gsclk true]
        obs := s.obs.bind fun o => o.seeLine .gsclk true }) ∧
    (s.phase = .clockHigh →
      exec (.applyFrame bs) s = .next { s with
        phase := .clocked
        line := { s.line with gsclk := some false }
        trace := s.trace ++ [.setLine .gsclk false]
        obs := s.obs.bind fun o => o.seeLine .gsclk false }) ∧
    (s.phase = .clocked →
      exec (.applyFrame bs) s = .next { s with
        phase := .idle
        cmd := none
        responses := s.responses ++ [.ok .noData] }) ∧
    (s.phase = .idle → s.bound = false →
      ∃ t, exec (.applyFrame bs) s = .next t ∧ t.phase = .idle ∧ t.trace = s.trace) ∧
    (∀ (i : Instr) (t : State), (∀ bs', i ≠ .applyFrame bs') → s.phase = .idle →
      exec i s = .next t → t.phase = .idle)

/-- R192, R199: a whole APPLY_FRAME the transport answers `Ok`: eight micro-steps of its meaning, eight
events in the fixed order, lines (0, 0, VPRG as it was, 0), response `Ok NoData`, nothing else. -/
def Obligations.ApplyFrameCompletes : Prop :=
  ∀ (bs : List Byte) (s : State) (as : List TransportDraw),
    s.phase = .idle → s.bound = true → s.answers = .ok :: as →
    execTimes (.applyFrame bs) 8 s = .next { s with
      line := { gsclk := some false, blank := some false, vprg := s.line.vprg, xlat := some false }
      pending := []
      cmd := none
      trace := s.trace ++
        [.transmit bs, .transportAnswer .ok, .setLine .blank true, .setLine .xlat true,
          .setLine .xlat false, .setLine .blank false, .setLine .gsclk true, .setLine .gsclk false]
      responses := s.responses ++ [.ok .noData]
      answers := as
      obs := s.obs.bind fun o => o.seeAll s.serialCfg (applyFrameEvents bs) }

/-- R13, R71: from an idle block the same eight micro-steps are the next eight steps of the machine. The second
has two events (R188, R193; log entry 31). -/
def Obligations.StepsCarryApplyFrameThrough : Prop :=
  ∀ (bs : List Byte) (s : State) (rest : List PortItem) (as : List TransportDraw),
    s.cmd = none → s.phase = .idle → s.bound = true →
    s.port = .term (.applyFrame bs) :: rest → s.answers = .ok :: as →
    Host.Core.run Sys2Proof.core 8 s = .next { s with
      line := { gsclk := some false, blank := some false, vprg := s.line.vprg, xlat := some false }
      pending := []
      trace := s.trace ++ applyFrameEvents bs
      responses := s.responses ++ [.ok .noData]
      port := rest
      answers := as
      obs := s.obs.bind fun o => o.seeAll s.serialCfg (applyFrameEvents bs) }

/-- R194, R233, R89 (D24): a transmission answered `Err`: two events, no line write, TRANSPORT_ERROR 0. At the
chips the levels and the counts stay (log entry 13), and SR and GS are the free values of a fresh draw (log
entry 9). -/
def Obligations.TransportErrorLeavesLines : Prop :=
  ∀ (bs : List Byte) (s : State) (as : List TransportDraw) (o : Observer) (c : SerialCfg),
    s.phase = .idle → s.bound = true → s.answers = .err :: as →
    s.obs = some o → s.serialCfg = some c →
    execTimes (.applyFrame bs) 2 s = .next { s with
      pending := []
      cmd := none
      trace := s.trace ++ [.transmit bs, .transportAnswer .err]
      responses := s.responses ++ [.err .transportError 0]
      answers := as
      obs := some { o with
        sr := freeBits (o.draws + 1) o.sr.length
        gs := freeChannels (o.draws + 1) o.gs.length
        flight := none
        draws := o.draws + 2 } }

/-- R195: a hang is reached with `Transmit` as the last event, the bytes pending and the command in the
slot, and the machine never goes further. That it stays there for ever is rendered as the fault transportHung,
the stuck state of I4 (log entry 4: DESIGN CHOICE). -/
def Obligations.HungTransportIsStuck : Prop :=
  ∀ (bs : List Byte) (s : State) (rest : List PortItem) (as : List TransportDraw),
    s.cmd = none → s.phase = .idle → s.bound = true →
    s.port = .term (.applyFrame bs) :: rest → s.answers = .hang :: as →
    (∃ t, Host.Core.run Sys2Proof.core 1 s = .next t ∧
      t.phase = .transmitting ∧ t.pending = bs ∧ t.cmd = some (.applyFrame bs) ∧
      t.trace = s.trace ++ [.transmit bs] ∧ t.line = s.line ∧ t.responses = s.responses ∧
      t.port = rest) ∧
    ∀ k, Host.Core.run Sys2Proof.core (k + 2) s = .fault .transportHung

/-- R185 (D19; the free draw is log entry 3): with no known answer the transport's draw is free; each of
the three outcomes has its row. That the block stays in Transmitting for ever after a hang (R195) is rendered as
the fault transportHung (log entry 4: DESIGN CHOICE). -/
def Obligations.FreeTransportDrawDecides : Prop :=
  ∀ (bs : List Byte) (s : State), s.phase = .idle → s.bound = true → s.answers = [] →
    match Config.transport s.transportDraws bs with
    | .ok => ∃ t, execTimes (.applyFrame bs) 8 s = .next t ∧
        t.responses = s.responses ++ [.ok .noData] ∧ t.trace = s.trace ++ applyFrameEvents bs ∧
        t.transportDraws = s.transportDraws + 1
    | .err => ∃ t, execTimes (.applyFrame bs) 2 s = .next t ∧
        t.responses = s.responses ++ [.err .transportError 0] ∧ t.line = s.line ∧
        t.transportDraws = s.transportDraws + 1
    | .hang => ∀ k, execTimes (.applyFrame bs) (k + 2) s = .fault .transportHung

/-! ### Invariants and rules of the whole machine -/

/-- R45, R270 (D12): power-on. -/
def Obligations.PowerOnState : Prop :=
  State.reset.line = { gsclk := none, blank := none, vprg := none, xlat := none } ∧
  State.reset.serialCfg = none ∧ State.reset.bound = false ∧ State.reset.phase = .idle ∧
  State.reset.pending = [] ∧ State.reset.cmd = none ∧ State.reset.trace = []

/-- The invariant and the order of events hold at power-on, whatever the build. -/
def Obligations.InvHoldsAtPowerOn : Prop :=
  ∀ p : Params, (State.powerOn p).Inv ∧ (State.powerOn p).Ordered

/-- R35-R37, R40, R43, R85, R197, R198: every step keeps the invariant. That INIT's XLAT write meets VPRG = 0, so
that the observer does not refuse it, rests on the order of D13 (log entry 20, unsafe). -/
def Obligations.StepKeepsInv : Prop :=
  ∀ s t : State, s.Inv → step s = .next t → t.Inv

/-- R13, R37, R188, R193: the phase moves by the table's rows only, APPLY_FRAME alone is in progress outside
Idle, and each row has its number of events: one, but two on `Ok`, and none with the last response (log entry
29: DEDUCED, R188's row against the letter of R193). The two on `Ok` are R188's and R193's, against the letter of
R13 (log entry 31: DEDUCED). A step within Idle emits at most one (log entry 2). -/
def Obligations.PhaseFollowsTheTable : Prop :=
  ∀ s t : State, s.Inv → step s = .next t →
    (s.phase, t.phase) ∈ Sys2Proof.SpecTable.transitions ∧
    (t.phase ≠ .idle → ∃ bs, t.cmd = some (.applyFrame bs)) ∧
    (s.phase = .idle → t.phase = .idle → t.trace.length ≤ s.trace.length + 1) ∧
    (s.phase = .idle → t.phase = .transmitting → t.trace.length = s.trace.length + 1) ∧
    (s.phase = .transmitting → t.phase = .blanked → t.trace.length = s.trace.length + 2) ∧
    (s.phase = .transmitting → t.phase = .idle → t.trace.length = s.trace.length + 1) ∧
    (s.phase = .clocked → t.trace = s.trace) ∧
    (s.phase ≠ .idle → s.phase ≠ .transmitting → s.phase ≠ .clocked →
      t.trace.length = s.trace.length + 1)

/-- R73, R74, R199: every step keeps the events in the fixed order, commands whole and one after the other.
The order of INIT's five events is the spec's decision D13 only (R272; log entry 20, unsafe). -/
def Obligations.StepKeepsOrder : Prop :=
  ∀ s t : State, s.Inv → s.Ordered → step s = .next t → t.Ordered

/-- R277, R278 (D19): where the events are in order, XLAT is written only under BLANK = 1, and a latch pulse
comes right after a transmission answered `Ok` and the Blank. That INIT's XLAT write comes under BLANK = 1
rests on the spec's decision D13 (R272; log entry 20, unsafe), not on R278. -/
def Obligations.LatchIsBlankedAndAfterTransmit : Prop :=
  ∀ (s : State) (pre post : List Event) (v : Bit), s.Ordered →
    s.trace = pre ++ .setLine .xlat v :: post →
    lastLevel .blank pre = some true ∧
    (v = true → ∃ pre' bs,
      pre = pre' ++ [.transmit bs, .transportAnswer .ok, .setLine .blank true])

/-- R85, R197: under the invariant a bound block holds VPRG at 0 and has GSCLK and XLAT at 0 when Idle,
with BLANK driven. -/
def Obligations.IdleLinesOnceBound : Prop :=
  ∀ s : State, s.Inv → s.bound = true →
    s.line.vprg = some false ∧
    (s.phase = .idle → s.line.gsclk = some false ∧ s.line.xlat = some false ∧ s.line.blank ≠ none)

/-- R33, R35, R36: who writes lines, configuration and binding. -/
def Obligations.OnlyControllerDrivesThePort : Prop :=
  ∀ (i : Instr) (s t : State), exec i s = .next t →
    (t.line ≠ s.line → i = .init ∨ ∃ bs, i = .applyFrame bs) ∧
    (t.serialCfg ≠ s.serialCfg → i = .init) ∧
    (t.bound ≠ s.bound → i = .init) ∧
    (t.line.vprg ≠ s.line.vprg → i = .init ∧ t.line.vprg = some false)

/-- R36, R232 (D12): a step never unbinds; under the invariant a build with an invalid configuration is never
bound; the parameters never change (R34). -/
def Obligations.BindingIsForGood : Prop :=
  ∀ s t : State, step s = .next t →
    (s.bound = true → t.bound = true) ∧
    (s.Inv → s.params.configValid = false → t.bound = s.bound) ∧
    t.params = s.params

/-! ### Responses -/

/-- R110 (D6): the binary response: status and count with the payload's bytes, bits most significant first
and zeros after the last; status and detail alone for an error. -/
def Obligations.BinaryResponseFormat : Prop :=
  (∀ p : Payload, p.count ≤ 16777215 →
    (Response.toFrame (.ok p)).opc = 0x00#8 ∧ (Response.toFrame (.ok p)).len = p.count) ∧
  (Response.toFrame (.ok .noData)).payload = [] ∧
  (∀ bs : List Byte, (Response.toFrame (.ok (.bytes bs))).payload = bs) ∧
  (∀ b : List Bit, (Response.toFrame (.ok (.bits b))).payload.length = (b.length + 7) / 8 ∧
    ∀ i, i < 8 * ((b.length + 7) / 8) →
      ((Response.toFrame (.ok (.bits b))).payload.getD (i / 8) 0#8).getLsbD (7 - i % 8) =
        b.getD i false) ∧
  (∀ (e : ErrorStatus) (d : Nat), d ≤ 16777215 →
    (Response.toFrame (.err e d)).opc = e.code ∧ (Response.toFrame (.err e d)).len = d ∧
      (Response.toFrame (.err e d)).payload = [])

/-- R231 (D7), I26: the status codes; the reserved ones are refused by a receiver. -/
def Obligations.StatusCodes : Prop :=
  ErrorStatus.configurationError.code = 0x01#8 ∧ ErrorStatus.transportError.code = 0x02#8 ∧
  ErrorStatus.inputShapeError.code = 0x03#8 ∧ ErrorStatus.illegalCommand.code = 0x04#8 ∧
  ErrorStatus.notInitialized.code = 0x05#8 ∧
  (∀ e : ErrorStatus, statusOfCode e.code = some (some e)) ∧ statusOfCode 0x00#8 = some none ∧
  ∀ c : Byte, 6 ≤ c.toNat → statusOfCode c = none

/-! ### The chips -/

/-- R81 (D39): the chain after any number of wire bits. -/
def Obligations.ShiftMovesTowardFarEnd : Prop :=
  ∀ (sr ws : List Bit) (p : Nat), p < sr.length →
    (shiftAll sr ws).length = sr.length ∧
    (shiftAll sr ws)[p]? =
      if p < ws.length then ws[ws.length - 1 - p]? else sr[p - ws.length]?

/-- R67 (which the spec derives from R62, R65): the wire order of a byte sequence under the block's
configuration, and that a packed Frame's wire order is its stream order. -/
def Obligations.WireOrderIsByteZeroBitSevenFirst : Prop :=
  (∀ bs : List Byte,
    (SerialCfg.standard.wireBits bs).length = 8 * bs.length ∧
    ∀ (j k : Nat) (b : Byte), bs[j]? = some b → k < 8 →
      (SerialCfg.standard.wireBits bs)[8 * j + (7 - k)]? = some (b.getLsbD k)) ∧
  ∀ f : List Nat, f.length % 16 = 0 → SerialCfg.standard.wireBits (pack (stream f)) = stream f

/-- R187 (D20): under SPI mode 0 a chip samples exactly the bits sent; SCLK ends low; no bits, no edge. -/
def Obligations.ModeZeroDeliversTheBits : Prop :=
  ∀ (sout : Bit) (ws : List Bit),
    sampled false sout (wireActs ws) = ws ∧ sclkAfter false (wireActs ws) = false ∧
      wireActs [] = []

/-- R85 (D37): XLAT falling with VPRG = 0 copies SR into GS; with VPRG = 1 it is refused. -/
def Obligations.LatchCopiesShiftRegister : Prop :=
  ∀ (ob : Observer) (n : Nat), ob.lvl.xlat = true → ob.sr.length = 192 * n →
    (ob.lvl.vprg = true → ob.seeLine .xlat false = none) ∧
    (ob.lvl.vprg = false → ∃ ob', ob.seeLine .xlat false = some ob' ∧ ob'.gs.length = 16 * n ∧
      ∀ c o, c < n → o < 16 →
        (ob'.gs.getD (16 * c + o) 0#12).toNat =
          ((List.range 12).map fun b =>
            (ob.sr.getD (192 * c + 12 * o + b) false).toNat * 2 ^ b).sum)

/-- R86, R87 (D38), R88: a write that repeats the level is no edge; a GSCLK pulse advances every count by
one; BLANK = 1 forces every output off. -/
def Obligations.LevelsAtTheChips : Prop :=
  ∀ ob : Observer,
    (∀ l, ob.seeLine l (ob.lvl.get l) = some ob) ∧
    (ob.lvl.gsclk = false → ∀ cfg,
      ob.seeAll cfg [.setLine .gsclk true, .setLine .gsclk false] =
        some { ob with cnt := ob.cnt.map (· + 1) }) ∧
    (ob.lvl.blank = true → ∀ c o, ob.output c o = some false)

/-- R83 (derived from R65, R81, R82): a whole Frame transmitted with `Ok` rests in the chips' shift registers,
bit by bit. The direction of the shift is the spec's decision D39, and that `Ok` comes after the last bit D19
(log entry 17, unsafe). -/
def Obligations.FrameIsDelivered : Prop :=
  ∀ (n : Nat) (f : List Nat) (ob : Observer) (bs : List Byte), 1 ≤ n → f.length = 16 * n →
    packChannelValues f = .ok (.bytes bs) → ob.sr.length = 192 * n →
    ∃ ob', ob.seeAll (some SerialCfg.standard) [.transmit bs, .transportAnswer .ok] = some ob' ∧
      ob'.gs = ob.gs ∧
      ∀ c o b, c < n → o < 16 → b < 12 →
        ob'.sr[192 * c + 12 * o + b]? = some ((f.getD (16 * c + o) 0).testBit b)

/-- R72 (derived from R81, R83): sending the same whole frame again leaves the same bits in the chain. -/
def Obligations.RepeatedFrameLeavesSameBits : Prop :=
  ∀ (n : Nat) (sr : List Bit) (bs : List Byte), sr.length = 192 * n → bs.length = 24 * n →
    shiftAll (shiftAll sr (SerialCfg.standard.wireBits bs)) (SerialCfg.standard.wireBits bs) =
      shiftAll sr (SerialCfg.standard.wireBits bs)

/-- R200 (derived from R190, R192, R83-R87): INIT, then APPLY_FRAME of a packed Frame with `Ok`: fourteen steps
(six and eight: log entry 2) from commands at the port (log entry 1), and the chips show the Frame. That `Ok`
comes after the last bit is D19 (log entry 17, unsafe); that INIT writes VPRG before XLAT, so that a latch there
is not refused, is D13 (log entry 20, unsafe). -/
def Obligations.FrameReachesTheOutputs : Prop :=
  ∀ (s : State) (f : List Nat) (bs : List Byte) (rest : List PortItem) (as : List TransportDraw)
    (ob : Observer),
    s.params.configValid = true → s.cmd = none → s.phase = .idle → s.initStage = .start →
    1 ≤ s.params.nChips → f.length = 16 * s.params.nChips →
    packChannelValues f = .ok (.bytes bs) →
    s.port = .term .init :: .term (.applyFrame bs) :: rest → s.answers = .ok :: as →
    s.obs = some ob → ob.sized s.params.nChips →
    ∃ t ob', Host.Core.run Sys2Proof.core 14 s = .next t ∧ t.obs = some ob' ∧
      t.responses = s.responses ++ [.ok .noData, .ok .noData] ∧ t.port = rest ∧
      ob'.gs = f.map (BitVec.ofNat 12) ∧ ob'.lvl.blank = false ∧ ob'.cnt = ob.cnt.map (· + 1)

/-! ### The host's assembler -/

/-- R114 (D34-D36): what the assembler accepts fits the binary layer's limits. -/
def Obligations.AcceptedLiteralsFit : Prop :=
  (∀ (ts : List Asm.Tok) (b : List Bit), Asm.bitsOperand ts = .ok (.lit b) →
    b.length ≤ 16777215) ∧
  (∀ (ts : List Asm.Tok) (bs : List Byte), Asm.bytesOperand ts = .ok (.lit bs) →
    bs.length ≤ 16777215) ∧
  (∀ (ts : List Asm.Tok) (v : List Nat), Asm.valuesOperand ts = .ok (.lit v) →
    v.length ≤ 16777215 ∧ ∀ x ∈ v, x ≤ 65535)

/-- R113 (D36): a statement that uses a variable without a payload stops the program before it is issued. -/
def Obligations.FailedVariableStopsProgram : Prop :=
  ∀ (x : Asm.Var) (st : Asm.Stmt) (rest : List Asm.Stmt) (h : Asm.HostRun),
    h.vars.payload x = none →
    (st.cmd = .packBits (.var x) ∨ st.cmd = .expandOutputs (.var x) ∨
      st.cmd = .simpleByteArray (.var x) ∨ st.cmd = .packChannelValues (.var x) ∨
      st.cmd = .applyFrame (.var x)) →
    Asm.runProgram (st :: rest) h = (.stopped, h)

/-- R100, R116 (D2): an encodable command at an idle block's port has the same runs as its binary frame
and as the abstract term. -/
def Obligations.FrameAndTermAreServedAlike : Prop :=
  ∀ (i : Instr) (s : State) (n : Nat), i.WellFormed → s.cmd = none → s.port = [] →
    Host.Core.run Sys2Proof.core (n + 1) { s with port := [.frame (encode i)] } =
      Host.Core.run Sys2Proof.core (n + 1) { s with port := [.term i] }
end

