-- ==== Sys2Proof/Laws/Bits.lean ====
section
/-! SUPPORT. Lengths and elements of bit and byte sequences: what `pack`, `unpack`, `bitsOf`, `val`,
`expand` and `stream` give, said once. -/

namespace Sys2Proof

theorem val_foldl (bs : List Bit) (a : Nat) :
    bs.foldl (fun acc b => 2 * acc + b.toNat) a = a * 2 ^ bs.length + val bs := by
  induction bs generalizing a with
  | nil => simp [val]
  | cons b bs ih =>
    simp only [List.foldl_cons, List.length_cons, val]
    rw [ih, ih (2 * 0 + b.toNat)]
    ring

@[simp] theorem val_nil : val [] = 0 := rfl

theorem val_cons (b : Bit) (bs : List Bit) : val (b :: bs) = b.toNat * 2 ^ bs.length + val bs := by
  have h := val_foldl bs (2 * 0 + b.toNat)
  simpa [val] using h

/-- A sequence's number fits in as many bits as it has. -/
theorem val_lt (bs : List Bit) : val bs < 2 ^ bs.length := by
  induction bs with
  | nil => simp
  | cons b bs ih =>
    rw [val_cons, List.length_cons, pow_succ]
    cases b <;> simp <;> omega

@[simp] theorem length_bitsOf (k v : Nat) : (bitsOf k v).length = k := by simp [bitsOf]

/-- R11: element `i` of `bits_k(v)` is bit `k - 1 - i`. -/
theorem getElem?_bitsOf {k v i : Nat} (h : i < k) :
    (bitsOf k v)[i]? = some (v.testBit (k - 1 - i)) := by
  simp [bitsOf, h]

theorem bitsOf_succ (k v : Nat) : bitsOf (k + 1) v = v.testBit k :: bitsOf k v := by
  simp only [bitsOf, List.range_succ_eq_map, List.map_cons, List.map_map]
  congr 1
  apply List.map_congr_left
  intro i _
  simp only [Function.comp]
  congr 1
  omega

/-- R11: reading back the bits of a number keeps its low `k` bits. -/
theorem val_bitsOf (k v : Nat) : val (bitsOf k v) = v % 2 ^ k := by
  induction k with
  | zero => simp [bitsOf, Nat.mod_one]
  | succ k ih =>
    rw [bitsOf_succ, val_cons, ih, length_bitsOf, Nat.mod_pow_succ, Nat.testBit_eq_decide_div_mod_eq]
    have h2 : v / 2 ^ k % 2 < 2 := Nat.mod_lt _ (by decide)
    by_cases h : v / 2 ^ k % 2 = 1
    · simp [h]; ring
    · have h0 : v / 2 ^ k % 2 = 0 := by omega
      simp [h0]

/-- R11: element `i` of a sequence is the bit of its number at the matching place. -/
theorem testBit_val (bs : List Bit) (i : Nat) (h : i < bs.length) :
    (val bs).testBit (bs.length - 1 - i) = bs[i] := by
  induction bs generalizing i with
  | nil => simp at h
  | cons b bs ih =>
    rw [val_cons]
    have hlt := val_lt bs
    cases i with
    | zero =>
      simp only [List.length_cons, List.getElem_cons_zero]
      rw [show bs.length + 1 - 1 - 0 = bs.length by omega, Nat.testBit_eq_decide_div_mod_eq]
      rw [show b.toNat * 2 ^ bs.length + val bs = val bs + 2 ^ bs.length * b.toNat by ring,
        Nat.add_mul_div_left _ _ (by positivity), Nat.div_eq_of_lt hlt]
      cases b <;> rfl
    | succ i =>
      have hi : i < bs.length := by simpa using h
      simp only [List.length_cons, List.getElem_cons_succ]
      rw [show bs.length + 1 - 1 - (i + 1) = bs.length - 1 - i by omega, ← ih i hi,
        show b.toNat * 2 ^ bs.length + val bs = 2 ^ bs.length * b.toNat + val bs by ring]
      rw [Nat.testBit_two_pow_mul_add _ hlt]
      simp [show bs.length - 1 - i < bs.length by omega]

/-- R11: the bits of a sequence's number are the sequence. -/
theorem bitsOf_val (bs : List Bit) : bitsOf bs.length (val bs) = bs := by
  apply List.ext_getElem (by simp)
  intro i h1 h2
  simp only [bitsOf, List.getElem_map, List.getElem_range]
  exact testBit_val bs i h2

/-- Element `k * i + j` where every piece has length `k`. -/
theorem getElem?_flatMap_const {α β : Type} (f : α → List β) (k : Nat) (hf : ∀ a, (f a).length = k)
    (l : List α) (i j : Nat) (hj : j < k) :
    (l.flatMap f)[k * i + j]? = l[i]?.bind fun a => (f a)[j]? := by
  induction l generalizing i with
  | nil => simp
  | cons a l ih =>
    cases i with
    | zero => simp [List.flatMap_cons, List.getElem?_append, hf, hj]
    | succ i =>
      rw [List.flatMap_cons, List.getElem?_append_right (by rw [hf]; nlinarith)]
      rw [hf, show k * (i + 1) + j - k = k * i + j by rw [Nat.mul_succ]; omega, ih]
      simp

theorem length_flatMap_const {α β : Type} (f : α → List β) (k : Nat) (hf : ∀ a, (f a).length = k)
    (l : List α) : (l.flatMap f).length = k * l.length := by
  induction l with
  | nil => simp
  | cons a l ih => simp [List.flatMap_cons, hf, ih, Nat.mul_succ]; omega

@[simp] theorem length_slice {α : Type} (s : List α) (i j : Nat) :
    (slice s i j).length = min (j - i) (s.length - i) := by
  simp [slice]

theorem getElem?_slice {α : Type} (s : List α) (i j k : Nat) (h : k < j - i) :
    (slice s i j)[k]? = s[i + k]? := by
  simp [slice, h]

@[simp] theorem length_pack (b : List Bit) : (pack b).length = b.length / 8 := by simp [pack]

/-- R142: byte `j` is the number of eight consecutive bits. -/
theorem getElem?_pack (b : List Bit) (j : Nat) (h : j < b.length / 8) :
    (pack b)[j]? = some (BitVec.ofNat 8 (val (slice b (8 * j) (8 * j + 8)))) := by
  simp [pack, h]

@[simp] theorem length_unpack (bs : List Byte) : (unpack bs).length = 8 * bs.length :=
  length_flatMap_const _ 8 (by simp) bs

/-- R145: bit `8 j + k` is bit `7 - k` of byte `j`. -/
theorem getElem?_unpack (bs : List Byte) (j k : Nat) (hk : k < 8) :
    (unpack bs)[8 * j + k]? = bs[j]?.map fun b => b.getLsbD (7 - k) := by
  rw [unpack, getElem?_flatMap_const _ 8 (by simp) bs j k hk]
  cases bs[j]? with
  | none => rfl
  | some b =>
    simp only [Option.bind_some, Option.map_some]
    rw [getElem?_bitsOf hk]
    rfl

@[simp] theorem length_padToByte (b : List Bit) : (padToByte b).length = 8 * ((b.length + 7) / 8) := by
  simp [padToByte]; omega

@[simp] theorem length_bitOperand (n : Nat) (pay : List Byte) :
    (bitOperand n pay).length = min n (8 * pay.length) := by
  simp [bitOperand]

theorem length_valueOperand : ∀ pay : List Byte, (valueOperand pay).length = pay.length / 2
  | [] => rfl
  | [_] => by simp [valueOperand]
  | a :: b :: rest => by
    simp only [valueOperand, List.length_cons, length_valueOperand rest]
    omega

/-- R107: two payload bytes an element. -/
@[simp] theorem length_valueBytes (v : Nat) : (valueBytes v).length = 2 := rfl

/-- R107: an element that fits 16 bits is read back. -/
theorem valueOperand_valueBytes (v : List Nat) (h : ∀ x ∈ v, x ≤ 65535) :
    valueOperand (v.flatMap valueBytes) = v := by
  induction v with
  | nil => rfl
  | cons x v ih =>
    have hx : x ≤ 65535 := h x (by simp)
    simp only [List.flatMap_cons, valueBytes, List.cons_append, List.nil_append, valueOperand]
    rw [ih fun y hy => h y (by simp [hy])]
    congr 1
    simp only [BitVec.toNat_ofNat]
    omega

/-- R102: the bits of a header, the count's low and the opcode's high. -/
theorem getLsbD_headerOf (c : Byte) (n i : Nat) :
    (headerOf c n).getLsbD i =
      if i < 24 then (BitVec.ofNat 24 n).getLsbD i else c.getLsbD (i - 24) := by
  have h := BitVec.getLsbD_append (x := c) (y := BitVec.ofNat 24 n) (i := i)
  exact h

/-- R102: the header's opcode is the one it was made of. -/
@[simp] theorem headerOf_opc (c : Byte) (n : Nat) (pay : List Byte) :
    ({ header := headerOf c n, payload := pay } : Frame).opc = c := by
  apply BitVec.eq_of_getLsbD_eq
  intro i hi
  simp [Frame.opc, getLsbD_headerOf, hi]

/-- R102, R105: the header's count is the low 24 bits of the one it was made of. -/
@[simp] theorem headerOf_len (c : Byte) (n : Nat) (pay : List Byte) :
    ({ header := headerOf c n, payload := pay } : Frame).len = n % 2 ^ 24 := by
  have h : (headerOf c n).extractLsb' 0 24 = BitVec.ofNat 24 n := by
    apply BitVec.eq_of_getLsbD_eq
    intro i hi
    simp [getLsbD_headerOf, hi]
  simp only [Frame.len, h, BitVec.toNat_ofNat]

/-! ### The Bit Packer's helpers -/

namespace Machine

/-- R146: twelve bits a flag. -/
@[simp] theorem length_expand (f : List Bit) : (expand f).length = 12 * f.length := by
  rw [expand, length_flatMap_const _ 12 (by simp), List.length_reverse]

/-- R148: twelve bits a value. -/
@[simp] theorem length_stream (v : List Nat) : (stream v).length = 12 * v.length := by
  rw [stream, length_flatMap_const _ 12 (by simp), List.length_reverse]

theorem wholeBytes_iff (n : Nat) : wholeBytes n = true ↔ n % 8 = 0 := by simp [wholeBytes]

theorem wholeChips_iff (n : Nat) : wholeChips n = true ↔ n ≠ 0 ∧ n % 16 = 0 := by simp [wholeChips]

theorem channelsInRange_iff (v : List Nat) : channelsInRange v = true ↔ ∀ x ∈ v, x ≤ 4095 := by
  simp [channelsInRange]

/-- R149: what an accepted Frame satisfies, and what is answered for it. -/
theorem packChannelValues_ok {v : List Nat} {bs : List Byte}
    (h : packChannelValues v = .ok (.bytes bs)) :
    v.length ≠ 0 ∧ v.length % 16 = 0 ∧ (∀ x ∈ v, x ≤ 4095) ∧ bs = pack (stream v) := by
  unfold packChannelValues at h
  split at h
  · split at h
    · obtain ⟨h0, h16⟩ := (wholeChips_iff _).1 ‹_›
      simp only [Response.ok.injEq, Payload.bytes.injEq] at h
      exact ⟨h0, h16, (channelsInRange_iff _).1 ‹_›, h.symm⟩
    · cases h
  · cases h

end Machine

end Sys2Proof
end

