-- ==== Sys2Proof/Laws/Observer.lean ====
section
/-! SUPPORT. What the chips' operations give, said once: shifting, line writes, transmissions. -/

namespace Sys2Proof.Machine

@[simp] theorem LineBank.get_set_same {α : Type} (b : LineBank α) (l : Line) (v : α) :
    (b.set l v).get l = v := by cases l <;> rfl

theorem LineBank.get_set_other {α : Type} (b : LineBank α) (l k : Line) (v : α) (h : k ≠ l) :
    (b.set l v).get k = b.get k := by
  cases l <;> cases k <;> first | rfl | exact absurd rfl h

/-- Writing the value a line has changes nothing. -/
@[simp] theorem LineBank.set_get {α : Type} (b : LineBank α) (l : Line) : b.set l (b.get l) = b := by
  cases l <;> rfl

@[simp] theorem length_shiftOne (sr : List Bit) (w : Bit) : (shiftOne sr w).length = sr.length := by
  simp [shiftOne]

/-- R81: after any number of wire bits the chain holds the last ones, newest first, then what it held. -/
theorem shiftAll_eq (sr ws : List Bit) : shiftAll sr ws = (ws.reverse ++ sr).take sr.length := by
  induction ws generalizing sr with
  | nil => simp [shiftAll]
  | cons w ws ih =>
    have h : shiftAll sr (w :: ws) = shiftAll (shiftOne sr w) ws := rfl
    rw [h, ih, length_shiftOne, shiftOne]
    simp only [List.reverse_cons, List.append_assoc, List.singleton_append, List.take_append,
      List.take_take]
    congr 2
    omega

@[simp] theorem length_shiftAll (sr ws : List Bit) : (shiftAll sr ws).length = sr.length := by
  simp [shiftAll_eq]

theorem shiftAll_append (sr us ws : List Bit) :
    shiftAll sr (us ++ ws) = shiftAll (shiftAll sr us) ws := by
  simp [shiftAll]

@[simp] theorem length_latch (sr : List Bit) : (latch sr).length = sr.length / 12 := by simp [latch]

@[simp] theorem length_freeBits (d n : Nat) : (freeBits d n).length = n := by simp [freeBits]

@[simp] theorem length_freeChannels (d n : Nat) : (freeChannels d n).length = n := by
  simp [freeChannels]

/-- R88: a line write, when it is seen, sets that level; it never touches the shift register or a
transmission, and keeps the registers' sizes on a whole chain. -/
theorem Observer.seeLine_some {o o' : Observer} {l : Line} {v : Bit} (h : o.seeLine l v = some o') :
    o'.lvl = o.lvl.set l v ∧ o'.sr = o.sr ∧ o'.flight = o.flight ∧ o'.draws = o.draws ∧
      o'.cnt.length = o.cnt.length ∧ (o'.gs = o.gs ∨ o'.gs = latch o.sr) := by
  unfold Observer.seeLine at h
  by_cases hv : o.lvl.get l = v
  · simp only [hv, if_true, Option.some.injEq] at h
    subst h
    simp
  · simp only [hv, if_false] at h
    cases l <;> cases v <;> simp only [] at h <;> (try split at h) <;>
      first
      | cases h; done
      | (simp only [Option.some.injEq] at h; subst h; simp)

/-- R85: a line write is refused only where XLAT falls with VPRG = 1. -/
theorem Observer.seeLine_isSome (o : Observer) (l : Line) (v : Bit) (h : o.lvl.vprg = false) :
    ∃ o', o.seeLine l v = some o' := by
  unfold Observer.seeLine
  by_cases hv : o.lvl.get l = v
  · exact ⟨_, if_pos hv⟩
  · cases l <;> cases v <;> simp [hv, h]

theorem Observer.seeAll_append (cfg : Option SerialCfg) (o : Observer) (es fs : List Event) :
    o.seeAll cfg (es ++ fs) = (o.seeAll cfg es).bind fun o' => o'.seeAll cfg fs := by
  induction es generalizing o with
  | nil => rfl
  | cons e es ih =>
    simp only [List.cons_append, Observer.seeAll]
    cases o.see cfg e with
    | none => rfl
    | some o1 => exact ih o1

@[simp] theorem Observer.seeAll_nil (cfg : Option SerialCfg) (o : Observer) :
    o.seeAll cfg [] = some o := rfl

@[simp] theorem Observer.seeAll_cons (cfg : Option SerialCfg) (o : Observer) (e : Event)
    (es : List Event) : o.seeAll cfg (e :: es) = (o.see cfg e).bind fun o' => o'.seeAll cfg es := rfl

@[simp] theorem Observer.see_setLine (cfg : Option SerialCfg) (o : Observer) (l : Line) (v : Bit) :
    o.see cfg (.setLine l v) = o.seeLine l v := rfl

@[simp] theorem Observer.see_configureSerial (cfg : Option SerialCfg) (o : Observer) (c : SerialCfg) :
    o.see cfg (.configureSerial c) = some o := rfl

@[simp] theorem Observer.see_answerOk (cfg : Option SerialCfg) (o : Observer) :
    o.see cfg (.transportAnswer .ok) = some o.endFlight := rfl

@[simp] theorem Observer.see_answerErr (cfg : Option SerialCfg) (o : Observer) :
    o.see cfg (.transportAnswer .err) = some o.havoc := rfl

/-- R185: a transmission answered `Ok` has shifted in all its bits, whatever part had arrived before. -/
theorem Observer.endFlight_beginFlight (o : Observer) (ws : List Bit) :
    (o.beginFlight ws).endFlight =
      { o with sr := shiftAll o.sr ws, flight := none, draws := o.draws + 1 } := rfl

/-- Under the block's configuration the wire bits are the bytes' bits, most significant first (R67). -/
theorem SerialCfg.wireBits_msb8 (c : SerialCfg) (bs : List Byte) (h8 : c.unitBits = 8)
    (hm : c.order = .msb) : c.wireBits bs = unpack bs := by
  simp [SerialCfg.wireBits, unpack, h8, hm]

end Sys2Proof.Machine
end

