-- ==== Sys2Proof/Laws/State.lean ====
section
/-! SUPPORT. One lemma per field per state update, so that no proof unfolds a record update. -/

namespace Sys2Proof.Machine

@[simp] theorem State.emit_line (e : Event) (s : State) : (s.emit e).line = s.line := rfl
@[simp] theorem State.emit_serialCfg (e : Event) (s : State) :
    (s.emit e).serialCfg = s.serialCfg := rfl
@[simp] theorem State.emit_bound (e : Event) (s : State) : (s.emit e).bound = s.bound := rfl
@[simp] theorem State.emit_phase (e : Event) (s : State) : (s.emit e).phase = s.phase := rfl
@[simp] theorem State.emit_pending (e : Event) (s : State) : (s.emit e).pending = s.pending := rfl
@[simp] theorem State.emit_cmd (e : Event) (s : State) : (s.emit e).cmd = s.cmd := rfl
@[simp] theorem State.emit_trace (e : Event) (s : State) : (s.emit e).trace = s.trace ++ [e] :=
  rfl
@[simp] theorem State.emit_initStage (e : Event) (s : State) :
    (s.emit e).initStage = s.initStage := rfl
@[simp] theorem State.emit_responses (e : Event) (s : State) :
    (s.emit e).responses = s.responses := rfl
@[simp] theorem State.emit_port (e : Event) (s : State) : (s.emit e).port = s.port := rfl
@[simp] theorem State.emit_params (e : Event) (s : State) : (s.emit e).params = s.params := rfl
@[simp] theorem State.emit_answers (e : Event) (s : State) : (s.emit e).answers = s.answers := rfl
@[simp] theorem State.emit_transportDraws (e : Event) (s : State) :
    (s.emit e).transportDraws = s.transportDraws := rfl
@[simp] theorem State.emit_obs (e : Event) (s : State) :
    (s.emit e).obs = s.obs.bind fun o => o.see s.serialCfg e := rfl

@[simp] theorem State.setLine_line (l : Line) (v : Bit) (s : State) :
    (s.setLine l v).line = s.line.set l (some v) := rfl
@[simp] theorem State.setLine_serialCfg (l : Line) (v : Bit) (s : State) :
    (s.setLine l v).serialCfg = s.serialCfg := rfl
@[simp] theorem State.setLine_bound (l : Line) (v : Bit) (s : State) :
    (s.setLine l v).bound = s.bound := rfl
@[simp] theorem State.setLine_phase (l : Line) (v : Bit) (s : State) :
    (s.setLine l v).phase = s.phase := rfl
@[simp] theorem State.setLine_pending (l : Line) (v : Bit) (s : State) :
    (s.setLine l v).pending = s.pending := rfl
@[simp] theorem State.setLine_cmd (l : Line) (v : Bit) (s : State) :
    (s.setLine l v).cmd = s.cmd := rfl
@[simp] theorem State.setLine_trace (l : Line) (v : Bit) (s : State) :
    (s.setLine l v).trace = s.trace ++ [.setLine l v] := rfl
@[simp] theorem State.setLine_initStage (l : Line) (v : Bit) (s : State) :
    (s.setLine l v).initStage = s.initStage := rfl
@[simp] theorem State.setLine_responses (l : Line) (v : Bit) (s : State) :
    (s.setLine l v).responses = s.responses := rfl
@[simp] theorem State.setLine_port (l : Line) (v : Bit) (s : State) :
    (s.setLine l v).port = s.port := rfl
@[simp] theorem State.setLine_params (l : Line) (v : Bit) (s : State) :
    (s.setLine l v).params = s.params := rfl
@[simp] theorem State.setLine_answers (l : Line) (v : Bit) (s : State) :
    (s.setLine l v).answers = s.answers := rfl
@[simp] theorem State.setLine_transportDraws (l : Line) (v : Bit) (s : State) :
    (s.setLine l v).transportDraws = s.transportDraws := rfl
@[simp] theorem State.setLine_obs (l : Line) (v : Bit) (s : State) :
    (s.setLine l v).obs = s.obs.bind fun o => o.seeLine l v := rfl

@[simp] theorem State.configureSerial_line (c : SerialCfg) (s : State) :
    (s.configureSerial c).line = s.line := rfl
@[simp] theorem State.configureSerial_serialCfg (c : SerialCfg) (s : State) :
    (s.configureSerial c).serialCfg = some c := rfl
@[simp] theorem State.configureSerial_bound (c : SerialCfg) (s : State) :
    (s.configureSerial c).bound = s.bound := rfl
@[simp] theorem State.configureSerial_phase (c : SerialCfg) (s : State) :
    (s.configureSerial c).phase = s.phase := rfl
@[simp] theorem State.configureSerial_pending (c : SerialCfg) (s : State) :
    (s.configureSerial c).pending = s.pending := rfl
@[simp] theorem State.configureSerial_cmd (c : SerialCfg) (s : State) :
    (s.configureSerial c).cmd = s.cmd := rfl
@[simp] theorem State.configureSerial_trace (c : SerialCfg) (s : State) :
    (s.configureSerial c).trace = s.trace ++ [.configureSerial c] := rfl
@[simp] theorem State.configureSerial_initStage (c : SerialCfg) (s : State) :
    (s.configureSerial c).initStage = s.initStage := rfl
@[simp] theorem State.configureSerial_responses (c : SerialCfg) (s : State) :
    (s.configureSerial c).responses = s.responses := rfl
@[simp] theorem State.configureSerial_port (c : SerialCfg) (s : State) :
    (s.configureSerial c).port = s.port := rfl
@[simp] theorem State.configureSerial_params (c : SerialCfg) (s : State) :
    (s.configureSerial c).params = s.params := rfl
@[simp] theorem State.configureSerial_answers (c : SerialCfg) (s : State) :
    (s.configureSerial c).answers = s.answers := rfl
@[simp] theorem State.configureSerial_transportDraws (c : SerialCfg) (s : State) :
    (s.configureSerial c).transportDraws = s.transportDraws := rfl
@[simp] theorem State.configureSerial_obs (c : SerialCfg) (s : State) :
    (s.configureSerial c).obs = s.obs := by
  cases h : s.obs <;> simp [State.configureSerial, State.emit, Observer.see, h]

@[simp] theorem State.beginTransmit_line (bs : List Byte) (s : State) :
    (s.beginTransmit bs).line = s.line := rfl
@[simp] theorem State.beginTransmit_serialCfg (bs : List Byte) (s : State) :
    (s.beginTransmit bs).serialCfg = s.serialCfg := rfl
@[simp] theorem State.beginTransmit_bound (bs : List Byte) (s : State) :
    (s.beginTransmit bs).bound = s.bound := rfl
@[simp] theorem State.beginTransmit_phase (bs : List Byte) (s : State) :
    (s.beginTransmit bs).phase = .transmitting := rfl
@[simp] theorem State.beginTransmit_pending (bs : List Byte) (s : State) :
    (s.beginTransmit bs).pending = bs := rfl
@[simp] theorem State.beginTransmit_cmd (bs : List Byte) (s : State) :
    (s.beginTransmit bs).cmd = s.cmd := rfl
@[simp] theorem State.beginTransmit_trace (bs : List Byte) (s : State) :
    (s.beginTransmit bs).trace = s.trace ++ [.transmit bs] := rfl
@[simp] theorem State.beginTransmit_initStage (bs : List Byte) (s : State) :
    (s.beginTransmit bs).initStage = s.initStage := rfl
@[simp] theorem State.beginTransmit_responses (bs : List Byte) (s : State) :
    (s.beginTransmit bs).responses = s.responses := rfl
@[simp] theorem State.beginTransmit_port (bs : List Byte) (s : State) :
    (s.beginTransmit bs).port = s.port := rfl
@[simp] theorem State.beginTransmit_params (bs : List Byte) (s : State) :
    (s.beginTransmit bs).params = s.params := rfl
@[simp] theorem State.beginTransmit_answers (bs : List Byte) (s : State) :
    (s.beginTransmit bs).answers = s.answers := rfl
@[simp] theorem State.beginTransmit_transportDraws (bs : List Byte) (s : State) :
    (s.beginTransmit bs).transportDraws = s.transportDraws := rfl
@[simp] theorem State.beginTransmit_obs (bs : List Byte) (s : State) :
    (s.beginTransmit bs).obs = s.obs.bind fun o => o.see s.serialCfg (.transmit bs) := rfl

@[simp] theorem State.endTransmit_line (a : LinkAnswer) (s : State) :
    (s.endTransmit a).line = s.line := rfl
@[simp] theorem State.endTransmit_serialCfg (a : LinkAnswer) (s : State) :
    (s.endTransmit a).serialCfg = s.serialCfg := rfl
@[simp] theorem State.endTransmit_bound (a : LinkAnswer) (s : State) :
    (s.endTransmit a).bound = s.bound := rfl
@[simp] theorem State.endTransmit_phase (a : LinkAnswer) (s : State) :
    (s.endTransmit a).phase = s.phase := rfl
@[simp] theorem State.endTransmit_pending (a : LinkAnswer) (s : State) :
    (s.endTransmit a).pending = [] := rfl
@[simp] theorem State.endTransmit_cmd (a : LinkAnswer) (s : State) :
    (s.endTransmit a).cmd = s.cmd := rfl
@[simp] theorem State.endTransmit_trace (a : LinkAnswer) (s : State) :
    (s.endTransmit a).trace = s.trace ++ [.transportAnswer a] := rfl
@[simp] theorem State.endTransmit_initStage (a : LinkAnswer) (s : State) :
    (s.endTransmit a).initStage = s.initStage := rfl
@[simp] theorem State.endTransmit_responses (a : LinkAnswer) (s : State) :
    (s.endTransmit a).responses = s.responses := rfl
@[simp] theorem State.endTransmit_port (a : LinkAnswer) (s : State) :
    (s.endTransmit a).port = s.port := rfl
@[simp] theorem State.endTransmit_params (a : LinkAnswer) (s : State) :
    (s.endTransmit a).params = s.params := rfl
@[simp] theorem State.endTransmit_answers (a : LinkAnswer) (s : State) :
    (s.endTransmit a).answers = s.answers := rfl
@[simp] theorem State.endTransmit_transportDraws (a : LinkAnswer) (s : State) :
    (s.endTransmit a).transportDraws = s.transportDraws := rfl
@[simp] theorem State.endTransmit_obs (a : LinkAnswer) (s : State) :
    (s.endTransmit a).obs = s.obs.bind fun o => o.see s.serialCfg (.transportAnswer a) := rfl

@[simp] theorem State.takeDraw_line (s : State) : (s.takeDraw).line = s.line := by
  unfold State.takeDraw; split <;> rfl
@[simp] theorem State.takeDraw_serialCfg (s : State) : (s.takeDraw).serialCfg = s.serialCfg := by
  unfold State.takeDraw; split <;> rfl
@[simp] theorem State.takeDraw_bound (s : State) : (s.takeDraw).bound = s.bound := by
  unfold State.takeDraw; split <;> rfl
@[simp] theorem State.takeDraw_phase (s : State) : (s.takeDraw).phase = s.phase := by
  unfold State.takeDraw; split <;> rfl
@[simp] theorem State.takeDraw_pending (s : State) : (s.takeDraw).pending = s.pending := by
  unfold State.takeDraw; split <;> rfl
@[simp] theorem State.takeDraw_cmd (s : State) : (s.takeDraw).cmd = s.cmd := by
  unfold State.takeDraw; split <;> rfl
@[simp] theorem State.takeDraw_trace (s : State) : (s.takeDraw).trace = s.trace := by
  unfold State.takeDraw; split <;> rfl
@[simp] theorem State.takeDraw_initStage (s : State) :
    (s.takeDraw).initStage = s.initStage := by
  unfold State.takeDraw; split <;> rfl
@[simp] theorem State.takeDraw_responses (s : State) : (s.takeDraw).responses = s.responses := by
  unfold State.takeDraw; split <;> rfl
@[simp] theorem State.takeDraw_port (s : State) : (s.takeDraw).port = s.port := by
  unfold State.takeDraw; split <;> rfl
@[simp] theorem State.takeDraw_params (s : State) : (s.takeDraw).params = s.params := by
  unfold State.takeDraw; split <;> rfl
@[simp] theorem State.takeDraw_answers (s : State) : (s.takeDraw).answers = s.answers.tail := by
  unfold State.takeDraw; split <;> simp [*]
@[simp] theorem State.takeDraw_transportDraws (s : State) :
    (s.takeDraw).transportDraws = if s.answers.isEmpty then s.transportDraws + 1 else s.transportDraws := by
  unfold State.takeDraw; split <;> simp [*]
@[simp] theorem State.takeDraw_obs (s : State) : (s.takeDraw).obs = s.obs := by
  unfold State.takeDraw; split <;> rfl

@[simp] theorem State.respond_line (r : Response) (s : State) : (s.respond r).line = s.line := rfl
@[simp] theorem State.respond_serialCfg (r : Response) (s : State) :
    (s.respond r).serialCfg = s.serialCfg := rfl
@[simp] theorem State.respond_bound (r : Response) (s : State) : (s.respond r).bound = s.bound :=
  rfl
@[simp] theorem State.respond_phase (r : Response) (s : State) : (s.respond r).phase = s.phase :=
  rfl
@[simp] theorem State.respond_pending (r : Response) (s : State) :
    (s.respond r).pending = s.pending := rfl
@[simp] theorem State.respond_cmd (r : Response) (s : State) : (s.respond r).cmd = none := rfl
@[simp] theorem State.respond_trace (r : Response) (s : State) : (s.respond r).trace = s.trace :=
  rfl
@[simp] theorem State.respond_initStage (r : Response) (s : State) :
    (s.respond r).initStage = s.initStage := rfl
@[simp] theorem State.respond_responses (r : Response) (s : State) :
    (s.respond r).responses = s.responses ++ [r] := rfl
@[simp] theorem State.respond_port (r : Response) (s : State) : (s.respond r).port = s.port := rfl
@[simp] theorem State.respond_params (r : Response) (s : State) :
    (s.respond r).params = s.params := rfl
@[simp] theorem State.respond_answers (r : Response) (s : State) :
    (s.respond r).answers = s.answers := rfl
@[simp] theorem State.respond_transportDraws (r : Response) (s : State) :
    (s.respond r).transportDraws = s.transportDraws := rfl
@[simp] theorem State.respond_obs (r : Response) (s : State) : (s.respond r).obs = s.obs := rfl

@[simp] theorem State.returnOk_line (p : Payload) (s : State) : (s.returnOk p).line = s.line :=
  rfl
@[simp] theorem State.returnOk_serialCfg (p : Payload) (s : State) :
    (s.returnOk p).serialCfg = s.serialCfg := rfl
@[simp] theorem State.returnOk_bound (p : Payload) (s : State) : (s.returnOk p).bound = s.bound :=
  rfl
@[simp] theorem State.returnOk_phase (p : Payload) (s : State) : (s.returnOk p).phase = s.phase :=
  rfl
@[simp] theorem State.returnOk_pending (p : Payload) (s : State) :
    (s.returnOk p).pending = s.pending := rfl
@[simp] theorem State.returnOk_cmd (p : Payload) (s : State) : (s.returnOk p).cmd = none := rfl
@[simp] theorem State.returnOk_trace (p : Payload) (s : State) : (s.returnOk p).trace = s.trace :=
  rfl
@[simp] theorem State.returnOk_initStage (p : Payload) (s : State) :
    (s.returnOk p).initStage = s.initStage := rfl
@[simp] theorem State.returnOk_responses (p : Payload) (s : State) :
    (s.returnOk p).responses = s.responses ++ [.ok p] := rfl
@[simp] theorem State.returnOk_port (p : Payload) (s : State) : (s.returnOk p).port = s.port :=
  rfl
@[simp] theorem State.returnOk_params (p : Payload) (s : State) :
    (s.returnOk p).params = s.params := rfl
@[simp] theorem State.returnOk_answers (p : Payload) (s : State) :
    (s.returnOk p).answers = s.answers := rfl
@[simp] theorem State.returnOk_transportDraws (p : Payload) (s : State) :
    (s.returnOk p).transportDraws = s.transportDraws := rfl
@[simp] theorem State.returnOk_obs (p : Payload) (s : State) : (s.returnOk p).obs = s.obs := rfl

@[simp] theorem State.raise_line (e : ErrorStatus) (d : Nat) (s : State) :
    (s.raise e d).line = s.line := rfl
@[simp] theorem State.raise_serialCfg (e : ErrorStatus) (d : Nat) (s : State) :
    (s.raise e d).serialCfg = s.serialCfg := rfl
@[simp] theorem State.raise_bound (e : ErrorStatus) (d : Nat) (s : State) :
    (s.raise e d).bound = s.bound := rfl
@[simp] theorem State.raise_phase (e : ErrorStatus) (d : Nat) (s : State) :
    (s.raise e d).phase = .idle := rfl
@[simp] theorem State.raise_pending (e : ErrorStatus) (d : Nat) (s : State) :
    (s.raise e d).pending = s.pending := rfl
@[simp] theorem State.raise_cmd (e : ErrorStatus) (d : Nat) (s : State) :
    (s.raise e d).cmd = none := rfl
@[simp] theorem State.raise_trace (e : ErrorStatus) (d : Nat) (s : State) :
    (s.raise e d).trace = s.trace := rfl
@[simp] theorem State.raise_initStage (e : ErrorStatus) (d : Nat) (s : State) :
    (s.raise e d).initStage = s.initStage := rfl
@[simp] theorem State.raise_responses (e : ErrorStatus) (d : Nat) (s : State) :
    (s.raise e d).responses = s.responses ++ [.err e d] := rfl
@[simp] theorem State.raise_port (e : ErrorStatus) (d : Nat) (s : State) :
    (s.raise e d).port = s.port := rfl
@[simp] theorem State.raise_params (e : ErrorStatus) (d : Nat) (s : State) :
    (s.raise e d).params = s.params := rfl
@[simp] theorem State.raise_answers (e : ErrorStatus) (d : Nat) (s : State) :
    (s.raise e d).answers = s.answers := rfl
@[simp] theorem State.raise_transportDraws (e : ErrorStatus) (d : Nat) (s : State) :
    (s.raise e d).transportDraws = s.transportDraws := rfl
@[simp] theorem State.raise_obs (e : ErrorStatus) (d : Nat) (s : State) :
    (s.raise e d).obs = s.obs := rfl

@[simp] theorem State.conclude_line (r : Response) (s : State) : (s.conclude r).line = s.line :=
  by cases r <;> rfl
@[simp] theorem State.conclude_serialCfg (r : Response) (s : State) :
    (s.conclude r).serialCfg = s.serialCfg := by cases r <;> rfl
@[simp] theorem State.conclude_bound (r : Response) (s : State) :
    (s.conclude r).bound = s.bound := by cases r <;> rfl
@[simp] theorem State.conclude_pending (r : Response) (s : State) :
    (s.conclude r).pending = s.pending := by cases r <;> rfl
@[simp] theorem State.conclude_cmd (r : Response) (s : State) : (s.conclude r).cmd = none :=
  by cases r <;> rfl
@[simp] theorem State.conclude_trace (r : Response) (s : State) :
    (s.conclude r).trace = s.trace := by cases r <;> rfl
@[simp] theorem State.conclude_initStage (r : Response) (s : State) :
    (s.conclude r).initStage = s.initStage := by cases r <;> rfl
@[simp] theorem State.conclude_responses (r : Response) (s : State) :
    (s.conclude r).responses = s.responses ++ [r] := by cases r <;> rfl
@[simp] theorem State.conclude_port (r : Response) (s : State) : (s.conclude r).port = s.port :=
  by cases r <;> rfl
@[simp] theorem State.conclude_params (r : Response) (s : State) :
    (s.conclude r).params = s.params := by cases r <;> rfl
@[simp] theorem State.conclude_answers (r : Response) (s : State) :
    (s.conclude r).answers = s.answers := by cases r <;> rfl
@[simp] theorem State.conclude_transportDraws (r : Response) (s : State) :
    (s.conclude r).transportDraws = s.transportDraws := by cases r <;> rfl
@[simp] theorem State.conclude_obs (r : Response) (s : State) : (s.conclude r).obs = s.obs :=
  by cases r <;> rfl

@[simp] theorem State.accept_line (i : Instr) (s : State) : (s.accept i).line = s.line := rfl
@[simp] theorem State.accept_serialCfg (i : Instr) (s : State) :
    (s.accept i).serialCfg = s.serialCfg := rfl
@[simp] theorem State.accept_bound (i : Instr) (s : State) : (s.accept i).bound = s.bound := rfl
@[simp] theorem State.accept_phase (i : Instr) (s : State) : (s.accept i).phase = s.phase := rfl
@[simp] theorem State.accept_pending (i : Instr) (s : State) : (s.accept i).pending = s.pending :=
  rfl
@[simp] theorem State.accept_cmd (i : Instr) (s : State) : (s.accept i).cmd = some i := rfl
@[simp] theorem State.accept_trace (i : Instr) (s : State) : (s.accept i).trace = s.trace := rfl
@[simp] theorem State.accept_initStage (i : Instr) (s : State) :
    (s.accept i).initStage = s.initStage := rfl
@[simp] theorem State.accept_responses (i : Instr) (s : State) :
    (s.accept i).responses = s.responses := rfl
@[simp] theorem State.accept_port (i : Instr) (s : State) : (s.accept i).port = s.port := rfl
@[simp] theorem State.accept_params (i : Instr) (s : State) : (s.accept i).params = s.params :=
  rfl
@[simp] theorem State.accept_answers (i : Instr) (s : State) : (s.accept i).answers = s.answers :=
  rfl
@[simp] theorem State.accept_transportDraws (i : Instr) (s : State) :
    (s.accept i).transportDraws = s.transportDraws := rfl
@[simp] theorem State.accept_obs (i : Instr) (s : State) : (s.accept i).obs = s.obs := rfl

end Sys2Proof.Machine
end

