-- ==== Sys2Proof/Laws/Ops.lean ====
section
/-! SUPPORT. What each shared operation and a step can do, said once (inversion lemmas). -/

namespace Sys2Proof.Machine

/-- R185: a known answer is the one drawn. -/
theorem State.transportDraw_known {s : State} {a : TransportDraw} {as : List TransportDraw}
    (h : s.answers = a :: as) : s.transportDraw = a := by
  simp [State.transportDraw, h]

/-- R185: with no known answer the draw is free. -/
theorem State.transportDraw_free {s : State} (h : s.answers = []) :
    s.transportDraw = Config.transport s.transportDraws s.pending := by
  simp [State.transportDraw, h]

/-- R140: the end of a command whose effect is its response, from an idle block. -/
theorem State.conclude_idle {s : State} (h : s.phase = .idle) (r : Response) :
    s.conclude r = { s with cmd := none, responses := s.responses ++ [r] } := by
  cases r with
  | ok p => rfl
  | err e d =>
    have hs : s = { s with phase := .idle } := by
      cases s
      simp_all
    rw [hs]
    rfl

/-- R43, R189: how a command comes to run. -/
theorem State.fetch_run {s s' : State} {i : Instr} (h : s.fetch = .run i s') :
    (s.cmd = some i ∧ s' = s) ∨
    (s.cmd = none ∧ ∃ item rest, s.port = item :: rest ∧
      s' = { s with port := rest, cmd := some i } ∧
      (item = .term i ∨ ∃ f, item = .frame f ∧ decode f = .ok i)) := by
  unfold State.fetch at h
  split at h
  · simp only [Fetched.run.injEq] at h
    obtain ⟨rfl, rfl⟩ := h
    exact .inl ⟨‹_›, rfl⟩
  · split at h
    · cases h
    · simp only [Fetched.run.injEq] at h
      obtain ⟨rfl, rfl⟩ := h
      exact .inr ⟨‹_›, _, _, ‹_›, rfl, .inl rfl⟩
    · split at h
      · simp only [Fetched.run.injEq] at h
        obtain ⟨rfl, rfl⟩ := h
        exact .inr ⟨‹_›, _, _, ‹_›, rfl, .inr ⟨_, rfl, ‹_›⟩⟩
      · cases h

/-- R43: accepting a command changes the port and the slot only. -/
theorem State.fetch_run_keeps {s s' : State} {i : Instr} (h : s.fetch = .run i s') :
    s'.cmd = some i ∧ s'.line = s.line ∧ s'.serialCfg = s.serialCfg ∧ s'.bound = s.bound ∧
      s'.phase = s.phase ∧ s'.pending = s.pending ∧ s'.trace = s.trace ∧
      s'.initStage = s.initStage ∧
      s'.responses = s.responses ∧ s'.params = s.params ∧ s'.answers = s.answers ∧
      s'.transportDraws = s.transportDraws ∧ s'.obs = s.obs := by
  obtain ⟨hc, rfl⟩ | ⟨hc, item, rest, hp, rfl, -⟩ := State.fetch_run h <;> simp [*]

/-- R109, R270: what the block does without running a command. -/
theorem State.fetch_settle {s s' : State} (h : s.fetch = .settle s') :
    s.cmd = none ∧ ((s.port = [] ∧ s' = s) ∨
      ∃ f rest e, s.port = .frame f :: rest ∧ decode f = .error e ∧
        s' = ({ s with port := rest } : State).raise .illegalCommand e.detail) := by
  unfold State.fetch at h
  split at h
  · cases h
  · split at h
    · simp only [Fetched.settle.injEq] at h
      exact ⟨‹_›, .inl ⟨‹_›, h.symm⟩⟩
    · cases h
    · split at h
      · cases h
      · simp only [Fetched.settle.injEq] at h
        exact ⟨‹_›, .inr ⟨_, _, _, ‹_›, ‹_›, h.symm⟩⟩

/-- What a step can do: run the command fetched, wait, or reject an undecodable command. -/
theorem step_cases {s t : State} (h : step s = .next t) :
    (∃ i s', s.fetch = .run i s' ∧ exec i s' = .next t) ∨
    (s.cmd = none ∧ s.port = [] ∧ t = s) ∨
    (s.cmd = none ∧ ∃ f rest e, s.port = .frame f :: rest ∧ decode f = .error e ∧
      t = ({ s with port := rest } : State).raise .illegalCommand e.detail) := by
  unfold step at h
  split at h
  · exact .inl ⟨_, _, ‹_›, h⟩
  · simp only [Host.Outcome.next.injEq] at h
    subst h
    obtain ⟨hc, ⟨hp, rfl⟩ | ⟨f, rest, e, hp, hd, rfl⟩⟩ := State.fetch_settle ‹_›
    · exact .inr (.inl ⟨hc, hp, rfl⟩)
    · exact .inr (.inr ⟨hc, f, rest, e, hp, hd, rfl⟩)

/-- The response of a Bit Packer command, `none` for the two controller commands. -/
def packerResponse (p : Params) : Instr → Option Response
  | .init => none
  | .packBits b => some (packBits p.legacyTruncate b)
  | .expandOutputs f => some (expandOutputs f)
  | .simpleByteArray f => some (simpleByteArray f)
  | .packChannelValues v => some (packChannelValues v)
  | .applyFrame _ => none

/-- What a command can do: a Bit Packer command only answers; INIT takes the micro-step of its stage and
APPLY_FRAME the row of its phase. -/
theorem exec_cases {i : Instr} {s t : State} (h : exec i s = .next t) :
    (∃ r, packerResponse s.params i = some r ∧ t = s.conclude r) ∨
    (i = .init ∧ execInit s = .next t) ∨
    (∃ bs, i = .applyFrame bs ∧ execApplyFrame bs s = .next t) := by
  cases i with
  | init => exact .inr (.inl ⟨rfl, h⟩)
  | packBits b => simp only [exec, execPackBits, Host.Outcome.next.injEq] at h; exact .inl ⟨_, rfl, h.symm⟩
  | expandOutputs f =>
    simp only [exec, execExpandOutputs, Host.Outcome.next.injEq] at h; exact .inl ⟨_, rfl, h.symm⟩
  | simpleByteArray f =>
    simp only [exec, execSimpleByteArray, Host.Outcome.next.injEq] at h; exact .inl ⟨_, rfl, h.symm⟩
  | packChannelValues v =>
    simp only [exec, execPackChannelValues, Host.Outcome.next.injEq] at h; exact .inl ⟨_, rfl, h.symm⟩
  | applyFrame bs => exact .inr (.inr ⟨bs, rfl, h⟩)

/-- The micro-steps of R190 an INIT can take, each with the state it leaves. -/
theorem execInit_cases {s t : State} (h : execInit s = .next t) :
    (s.initStage = .start ∧ s.params.configValid = true ∧
      t = { s.setLine .gsclk false with initStage := .gsclkLow }) ∨
    (s.initStage = .start ∧ s.params.configValid = false ∧ t = s.raise .configurationError 0) ∨
    (s.initStage = .gsclkLow ∧ t = { s.setLine .blank true with initStage := .blankHigh }) ∨
    (s.initStage = .blankHigh ∧ t = { s.setLine .vprg false with initStage := .vprgLow }) ∨
    (s.initStage = .vprgLow ∧ t = { s.setLine .xlat false with initStage := .xlatLow }) ∨
    (s.initStage = .xlatLow ∧
      t = { s.configureSerial SerialCfg.standard with initStage := .configured }) ∨
    (s.initStage = .configured ∧
      t = ({ s with bound := true, initStage := .start } : State).returnOk .noData) := by
  unfold execInit at h
  split at h <;> simp only [Host.Outcome.next.injEq] at h
  · cases hc : s.params.configValid <;> simp [hc] at h <;> simp [*]
  all_goals
    subst h
    simp [*]

/-- The rows of R188 an APPLY_FRAME can take, each with the state it leaves. -/
theorem execApplyFrame_cases {bs : List Byte} {s t : State} (h : execApplyFrame bs s = .next t) :
    (s.phase = .idle ∧ s.bound = true ∧ t = s.beginTransmit bs) ∨
    (s.phase = .idle ∧ s.bound = false ∧ t = s.raise .notInitialized 0) ∨
    (s.phase = .transmitting ∧ s.transportDraw = .ok ∧
      t = { (s.takeDraw.endTransmit .ok).setLine .blank true with phase := .blanked }) ∨
    (s.phase = .transmitting ∧ s.transportDraw = .err ∧
      t = (s.takeDraw.endTransmit .err).raise .transportError 0) ∨
    (s.phase = .blanked ∧ t = { s.setLine .xlat true with phase := .latchHigh }) ∨
    (s.phase = .latchHigh ∧ t = { s.setLine .xlat false with phase := .latched }) ∨
    (s.phase = .latched ∧ t = { s.setLine .blank false with phase := .unblanked }) ∨
    (s.phase = .unblanked ∧ t = { s.setLine .gsclk true with phase := .clockHigh }) ∨
    (s.phase = .clockHigh ∧ t = { s.setLine .gsclk false with phase := .clocked }) ∨
    (s.phase = .clocked ∧ t = ({ s with phase := .idle } : State).returnOk .noData) := by
  unfold execApplyFrame at h
  split at h
  · simp only [applyFrameStart, Host.Outcome.next.injEq] at h
    cases hb : s.bound <;> simp [hb] at h <;> simp [*]
  · unfold applyFrameAnswer at h
    split at h <;> first | cases h; done | (simp only [Host.Outcome.next.injEq] at h; subst h; simp [*])
  all_goals
    simp only [Host.Outcome.next.injEq] at h
    subst h
    simp [*]

/-- A run goes on from the state its first step leaves. -/
theorem run_next {s t : State} (n : Nat) (h : step s = .next t) :
    Host.Core.run Sys2Proof.core (n + 1) s = Host.Core.run Sys2Proof.core n t := by
  have h' : Sys2Proof.core.step s = .next t := h
  simp only [Host.Core.run, h']

/-- Two states with the same first step have the same runs. -/
theorem run_congr {s t : State} (n : Nat) (h : step s = step t) :
    Host.Core.run Sys2Proof.core (n + 1) s = Host.Core.run Sys2Proof.core (n + 1) t := by
  have h' : Sys2Proof.core.step s = Sys2Proof.core.step t := h
  simp only [Host.Core.run, h']

end Sys2Proof.Machine
end

