-- ==== Sys2Proof/Laws/PerInstr.lean ====
section
/-! SUPPORT. What holds of every command as syntax, a lemma per constructor: its encoding has its opcode, the
payload length its count implies and, where the count fits LEN, that count (R102, R104, R105). -/

namespace Sys2Proof.Laws.Encodable

/-- R104, R105: the header and the payload of a command's encoding. -/
def Statement (i : Instr) : Prop :=
  (encode i).opc = i.opcode.code ∧ Opcode.ofCode (encode i).opc = some i.opcode ∧
    (i.count ≤ Config.maxLen → (encode i).len = i.count) ∧
    (encode i).payload.length = i.opcode.payloadBytes i.count

/-- Any command whose payload has the right length is encoded as stated. -/
theorem of_payload {i : Instr} (h : i.payload.length = i.opcode.payloadBytes i.count) : Statement i := by
  refine ⟨headerOf_opc _ _ _, ?_, fun hc => ?_, h⟩
  · rw [show (encode i).opc = i.opcode.code from headerOf_opc _ _ _]
    cases i.opcode <;> rfl
  · rw [show (encode i).len = i.count % 2 ^ 24 from headerOf_len _ _ _]
    exact Nat.mod_eq_of_lt (by simp only [Config.maxLen] at hc; omega)

theorem init : Statement .init := of_payload rfl

theorem packBits (b : List Bit) : Statement (.packBits b) :=
  of_payload (by simp [Instr.payload, Instr.opcode, Instr.count, Opcode.payloadBytes])

theorem expandOutputs (f : List Bit) : Statement (.expandOutputs f) :=
  of_payload (by simp [Instr.payload, Instr.opcode, Instr.count, Opcode.payloadBytes])

theorem simpleByteArray (f : List Bit) : Statement (.simpleByteArray f) :=
  of_payload (by simp [Instr.payload, Instr.opcode, Instr.count, Opcode.payloadBytes])

theorem packChannelValues (v : List Nat) : Statement (.packChannelValues v) :=
  of_payload (length_flatMap_const _ 2 (fun _ => rfl) v)

theorem applyFrame (bs : List Byte) : Statement (.applyFrame bs) := of_payload rfl

end Sys2Proof.Laws.Encodable
end

