-- ==== Sys2Proof/Tests/Slice0.lean ====
section
/-! SUPPORT. The model's own tests: well-formedness, decoding of words written out from R102-R108, one-step
tests with the results of 95_test_vectors.md, and a witness for the hypotheses of each statement. -/

set_option maxRecDepth 20000

namespace Sys2Proof.Tests

open Sys2Proof.Machine

/-! ### Well-formedness: an ill-formed term for each check -/

theorem test_wf_value_fits : Instr.WellFormed (.packChannelValues [65535]) := by decide

/-- R114: 65536 has no 16-bit encoding. -/
theorem test_ill_value : ¬ Instr.WellFormed (.packChannelValues [65536]) := by decide

/-- R105: a count of 2^24 does not fit LEN. -/
theorem test_ill_count : ¬ Instr.WellFormed (.applyFrame (List.replicate 16777216 0#8)) := by
  have h : (List.replicate 16777216 0#8).length = 16777216 := List.length_replicate
  simp only [Instr.WellFormed, Instr.wellFormed, Instr.count, h]
  decide

/-- V61: the response would not fit. -/
theorem test_ill_result : ¬ Instr.WellFormed (.expandOutputs (List.replicate 1398102 false)) := by
  have h : (List.replicate 1398102 false).length = 1398102 := List.length_replicate
  simp only [Instr.WellFormed, Instr.wellFormed, Instr.count, h]
  decide

/-- V62: the longest flag list EXPAND_OUTPUTS carries. -/
theorem test_wf_result : Instr.WellFormed (.expandOutputs (List.replicate 1398101 false)) := by
  have h : (List.replicate 1398101 false).length = 1398101 := List.length_replicate
  simp only [Instr.WellFormed, Instr.wellFormed, Instr.count, h]
  decide

/-! ### Decoding (R102-R109; the bytes and results of 95_test_vectors.md 2.7) -/

theorem test_decode_V46 : decodeBytes [0x01#8, 0x00#8, 0x00#8, 0x00#8] = .ok .init := by decide

/-- V47: B1 is 1011 0001. -/
theorem test_decode_V47 : decodeBytes [0x02#8, 0x00#8, 0x00#8, 0x08#8, 0xB1#8] =
    .ok (.packBits [true, false, true, true, false, false, false, true]) := by decide

theorem test_decode_V48 : decodeBytes [0x02#8, 0x00#8, 0x00#8, 0x09#8, 0xB1#8, 0x80#8] =
    .ok (.packBits [true, false, true, true, false, false, false, true, true]) := by decide

theorem test_decode_V49 : decodeBytes [0x03#8, 0x00#8, 0x00#8, 0x10#8, 0x80#8, 0x00#8] =
    .ok (.expandOutputs (true :: List.replicate 15 false)) := by decide

/-- V51: all sixteen flags are operands. -/
theorem test_decode_V51 : decodeBytes [0x04#8, 0x00#8, 0x00#8, 0x10#8, 0xA0#8, 0x3F#8] =
    .ok (.simpleByteArray
      ([true, false, true] ++ List.replicate 7 false ++ List.replicate 6 true)) := by decide

theorem test_decode_V52 : decodeBytes [0x05#8, 0x00#8, 0x00#8, 0x02#8, 0x0F#8, 0xFF#8, 0x00#8, 0x01#8] =
    .ok (.packChannelValues [4095, 1]) := by decide

/-- V45: five bytes AA. -/
theorem test_decode_V45 : decodeBytes ([0x06#8, 0x00#8, 0x00#8, 0x05#8] ++ List.replicate 5 0xAA#8) =
    .ok (.applyFrame (List.replicate 5 0xAA#8)) := by decide

/-- V63: the pad bits 0111 are ignored. -/
theorem test_decode_V63 : decodeBytes [0x02#8, 0x00#8, 0x00#8, 0x04#8, 0xB7#8] =
    .ok (.packBits [true, false, true, true]) := by decide

/-- V55-V57: reserved opcodes. -/
theorem test_reject_reserved :
    decode { header := 0x00000000#32, payload := [] } = .error .reservedOpcode ∧
    decode { header := 0x07000000#32, payload := [] } = .error .reservedOpcode ∧
    decode { header := 0xFF123456#32, payload := [] } = .error .reservedOpcode := by decide

/-- V58. -/
theorem test_reject_init_len :
    decode { header := 0x01000001#32, payload := [] } = .error .initLength := by decide

/-- V59, V60. -/
theorem test_reject_payload :
    decode { header := 0x02000009#32, payload := [0xB1#8] } = .error .payloadLength ∧
    decode { header := 0x06000018#32, payload := List.replicate 23 0x00#8 } = .error .payloadLength := by
  decide

/-- V61. -/
theorem test_reject_response :
    decode { header := 0x03155556#32, payload := List.replicate 174763 0x00#8 } =
      .error .responseTooLong := by
  have h : (List.replicate 174763 0x00#8).length = 174763 := List.length_replicate
  unfold decode
  simp only [h]
  decide

/-- V55, V58, V59, V61: the responses to the four rejections, as bytes. -/
theorem test_reject_details :
    Response.toBytes (.err .illegalCommand IllegalCommand.reservedOpcode.detail) =
      [0x04#8, 0x00#8, 0x00#8, 0x01#8] ∧
    Response.toBytes (.err .illegalCommand IllegalCommand.initLength.detail) =
      [0x04#8, 0x00#8, 0x00#8, 0x02#8] ∧
    Response.toBytes (.err .illegalCommand IllegalCommand.payloadLength.detail) =
      [0x04#8, 0x00#8, 0x00#8, 0x03#8] ∧
    Response.toBytes (.err .illegalCommand IllegalCommand.responseTooLong.detail) =
      [0x04#8, 0x00#8, 0x00#8, 0x04#8] := by decide

/-- The words of the opcode table, with operand words of zeros. -/
theorem test_table_words :
    decodeTableWord 32 0x01000000 = some .init ∧
    decodeTableWord 32 0x02000009 = some (.packBits (List.replicate 9 false)) ∧
    decodeTableWord 32 0x05000002 = some (.packChannelValues [0, 0]) ∧
    decodeTableWord 32 0x06000003 = some (.applyFrame (List.replicate 3 0x00#8)) ∧
    decodeTableWord 32 0x07000000 = none := by decide

/-! ### States for the tests -/

/-- A build with one chip and a valid configuration. -/
def build : Params where
  configValid := true
  legacyTruncate := false
  sinPresent := false
  nChips := 1
  pins := { gsclk := 0, blank := 1, vprg := 2, xlat := 3, sclk := 4, sout := 5, sin := 6 }

/-- Power-on of that build, with commands at the port and known transport answers. -/
def fresh (port : List PortItem) (answers : List TransportDraw) : State :=
  { State.powerOn build with port := port, answers := answers }

/-- A single chip all of whose bits are known. -/
def chip (blank : Bit) : Observer where
  sr := List.replicate 192 false
  gs := List.replicate 16 0#12
  cnt := [0]
  lvl := { gsclk := false, blank := blank, vprg := false, xlat := false }
  flight := none
  draws := 1

/-- A build with an invalid configuration, an INIT at its port (R232). -/
def unbuildable : State :=
  { fresh [.term .init] [] with params := { build with configValid := false } }

/-- The block after an INIT, with a known chip. -/
def ready (port : List PortItem) (answers : List TransportDraw) : State :=
  { fresh port answers with
    line := { gsclk := some false, blank := some true, vprg := some false, xlat := some false }
    serialCfg := some SerialCfg.standard
    bound := true
    obs := some (chip true) }

/-- The block within a first INIT, after its GSCLK write (R190). -/
def constructing (port : List PortItem) : State :=
  { fresh port [] with
    cmd := some .init
    initStage := .gsclkLow
    line := { gsclk := some false, blank := none, vprg := none, xlat := none }
    trace := [.setLine .gsclk false]
    obs := some { chip false with lvl := { gsclk := false, blank := false, vprg := true, xlat := true } } }

/-- The block while an APPLY_FRAME waits for the transport. -/
def waiting (bs : List Byte) (answers : List TransportDraw) : State :=
  { ready [] answers with
    cmd := some (.applyFrame bs)
    phase := .transmitting
    pending := bs
    trace := [.transmit bs]
    obs := some { chip true with flight := some { before := List.replicate 192 false, wire := [] } } }

/-- The block after BLANK has been set. -/
def blanked (bs : List Byte) : State :=
  { ready [] [] with cmd := some (.applyFrame bs), phase := .blanked }

/-- The block before the response of an APPLY_FRAME. -/
def clocked (bs : List Byte) : State :=
  { ready [] [] with
    cmd := some (.applyFrame bs)
    phase := .clocked
    line := { gsclk := some false, blank := some false, vprg := some false, xlat := some false }
    obs := some (chip false) }

/-- The responses an outcome shows; none where it is no next state. -/
def responsesOf : Host.Outcome State Fault Refusal → List Response
  | .next s => s.responses
  | .fault _ => []
  | .refused _ => []

/-- The events an outcome shows. -/
def traceOf : Host.Outcome State Fault Refusal → List Event
  | .next s => s.trace
  | .fault _ => []
  | .refused _ => []

/-! ### One step of each command (95_test_vectors.md) -/

/-- R13, V40a: one micro-step of INIT has one event and no response; six make the whole. -/
theorem test_init :
    (∃ t, exec .init (constructing []) = .next t ∧ t.bound = false ∧
      t.trace = [.setLine .gsclk false, .setLine .blank true] ∧ t.responses = []) ∧
    ∃ t, execTimes .init 6 (fresh [] []) = .next t ∧ t.bound = true ∧
      t.line = { gsclk := some false, blank := some true, vprg := some false, xlat := some false } ∧
      t.trace = [.setLine .gsclk false, .setLine .blank true, .setLine .vprg false,
        .setLine .xlat false, .configureSerial { unitBits := 8, order := .msb, rateHz := 10000000 }] ∧
      t.responses = [.ok .noData] := ⟨⟨_, rfl, rfl, rfl, rfl⟩, _, rfl, rfl, rfl, rfl, rfl⟩

/-- V40b. -/
theorem test_init_invalid :
    exec .init { fresh [] [] with params := { build with configValid := false } } =
      .next { fresh [] [] with
        params := { build with configValid := false }
        responses := [.err .configurationError 0] } := rfl

/-- V5. -/
theorem test_packBits :
    responsesOf (exec (.packBits ([true] ++ List.replicate 14 false ++ [true])) (fresh [] [])) =
      [.ok (.bytes [0x80#8, 0x01#8])] := by decide

/-- V8, V9: ten bits 1011000110, both values of LEGACY_TRUNCATE. -/
theorem test_packBits_ten :
    packBits false [true, false, true, true, false, false, false, true, true, false] =
      .err .inputShapeError 1 ∧
    packBits true [true, false, true, true, false, false, false, true, true, false] =
      .ok (.bytes [0xB1#8]) := by decide

/-- V11. -/
theorem test_expandOutputs :
    responsesOf (exec (.expandOutputs (true :: List.replicate 15 false)) (fresh [] [])) =
      [.ok (.bits (List.replicate 180 false ++ List.replicate 12 true))] := by decide

/-- V16-V18. -/
theorem test_expandOutputs_shape :
    expandOutputs [] = .err .inputShapeError 2 ∧
    expandOutputs (List.replicate 15 true) = .err .inputShapeError 2 ∧
    expandOutputs (List.replicate 17 true) = .err .inputShapeError 2 := by decide

/-- V19 (W4). -/
theorem test_simpleByteArray :
    responsesOf (exec (.simpleByteArray ([true, false, true] ++ List.replicate 13 false)) (fresh [] [])) =
      [.ok (.bytes (List.replicate 19 0x00#8 ++ [0x0F#8, 0xFF#8, 0x00#8, 0x0F#8, 0xFF#8]))] := by
  decide

/-- V25. -/
theorem test_simpleByteArray_shape :
    simpleByteArray (List.replicate 24 true) = .err .inputShapeError 2 := by decide

/-- V36. -/
theorem test_packChannelValues :
    responsesOf (exec (.packChannelValues
        [0x123, 0x456, 0x789, 0xABC, 0xDEF, 0x000, 0xFFF, 0x800, 0x001, 0x7FF, 0x555, 0xAAA, 0x0F0,
          0xF0F, 0x3C3, 0xC3C]) (fresh [] [])) =
      [.ok (.bytes [0xC3#8, 0xC3#8, 0xC3#8, 0xF0#8, 0xF0#8, 0xF0#8, 0xAA#8, 0xA5#8, 0x55#8, 0x7F#8,
        0xF0#8, 0x01#8, 0x80#8, 0x0F#8, 0xFF#8, 0x00#8, 0x0D#8, 0xEF#8, 0xAB#8, 0xC7#8, 0x89#8,
        0x45#8, 0x61#8, 0x23#8])] := by decide

/-- V38, V39a: the length is checked before the range. -/
theorem test_packChannelValues_range :
    packChannelValues (4096 :: List.replicate 15 0) = .err .inputShapeError 3 ∧
    packChannelValues (List.replicate 15 4096) = .err .inputShapeError 2 := by decide

/-- V41, and V42's start: an APPLY_FRAME before and after INIT. -/
theorem test_applyFrame_start :
    responsesOf (exec (.applyFrame [0xAA#8]) (fresh [] [])) = [.err .notInitialized 0] ∧
    traceOf (exec (.applyFrame [0xAA#8]) (fresh [] [])) = [] ∧
    traceOf (exec (.applyFrame [0xAA#8]) (ready [] [])) = [.transmit [0xAA#8]] := by decide

/-- V42, V43: the transport answers `Err`, or never. -/
theorem test_applyFrame_answers :
    responsesOf (exec (.applyFrame [0xAA#8]) (waiting [0xAA#8] [.err])) = [.err .transportError 0] ∧
    traceOf (exec (.applyFrame [0xAA#8]) (waiting [0xAA#8] [.err])) =
      [.transmit [0xAA#8], .transportAnswer .err] ∧
    exec (.applyFrame [0xAA#8]) (waiting [0xAA#8] [.hang]) = .fault .transportHung :=
  ⟨by decide, by decide, rfl⟩

/-! ### Responses, the wire and the chips -/

/-- V49, V52: the binary responses' headers. -/
theorem test_response_headers :
    headerBytes (Response.toFrame (.ok (.bits (List.replicate 192 false)))).header =
      [0x00#8, 0x00#8, 0x00#8, 0xC0#8] ∧
    (Response.toBytes (.err .inputShapeError 2)) = [0x03#8, 0x00#8, 0x00#8, 0x02#8] := by decide

/-- R85: a latch with VPRG = 1 is refused. -/
theorem test_latch_refused :
    ({ chip true with lvl := { gsclk := false, blank := true, vprg := true, xlat := true } } :
      Observer).seeLine .xlat false = none := by decide

/-- R66, R82: the two values of a pair stand 12 places apart in the chain, least significant bit lowest. -/
theorem test_latch_layout :
    latch (shiftAll (List.replicate 24 false) (unpack [0xAB#8, 0xC1#8, 0x23#8])) = [0x123#12, 0xABC#12] := by
  decide

/-! ### The assembler (R113-R115) -/

/-- R115: SHOW. -/
theorem test_assemble_show :
    Asm.assemble ["SHOW \"10\" + \"1\"*2 # on".toList] = .ok
      [{ dest := some (.fresh 0), cmd := .simpleByteArray (.lit [true, false, true, true]),
         stopOnErr := true },
       { dest := none, cmd := .applyFrame (.var (.fresh 0)), stopOnErr := true }] := by decide +kernel

/-- R114: a character that is no bit, a number above 65535, an odd byte literal. -/
theorem test_assemble_refused :
    Asm.assemble ["PACK_BITS \"102\"".toList] = .error .bitCharacter ∧
    Asm.assemble ["PACK_CHANNEL_VALUES [65536]".toList] = .error .valueTooLarge ∧
    Asm.assemble ["INIT".toList, "APPLY_FRAME x\"0F0\"".toList] = .error .hexLiteral := by decide +kernel

/-- R113: a name may be followed directly by a quote or a bracket (log entry 23). -/
theorem test_assemble_no_blank :
    Asm.assemble ["PACK_BITS\"10\"".toList] = .ok
      [{ dest := none, cmd := .packBits (.lit [true, false]), stopOnErr := false }] ∧
    Asm.assemble ["PACK_CHANNEL_VALUES[1]".toList] = .ok
      [{ dest := none, cmd := .packChannelValues (.lit [1]), stopOnErr := false }] := by decide +kernel

/-! ### Witnesses: the hypotheses of each statement are met -/

/-- The invariant at a fresh block. -/
theorem fresh_inv (port : List PortItem) (answers : List TransportDraw) : (fresh port answers).Inv where
  unbound _ := ⟨rfl, rfl, rfl⟩
  configured h := Bool.noConfusion h
  free _ := ⟨rfl, rfl⟩
  busy _ h := by cases h
  notPending _ := rfl
  observed := ⟨_, rfl, by simp [Observer.sized, Observer.powerOn, fresh, State.powerOn],
    by simp [Observer.powerOn, fresh, State.powerOn], by simp [fresh, State.powerOn, InitStage.written],
    fun h => Bool.noConfusion h⟩

/-- The invariant where the configuration is invalid. -/
theorem unbuildable_inv : unbuildable.Inv where
  unbound _ := ⟨rfl, rfl, rfl⟩
  configured h := Bool.noConfusion h
  free _ := ⟨rfl, rfl⟩
  busy _ h := by cases h
  notPending _ := rfl
  observed := ⟨_, rfl, by simp [Observer.sized, Observer.powerOn, unbuildable, fresh, State.powerOn, build],
    by simp [Observer.powerOn, unbuildable, fresh, State.powerOn],
    by simp [unbuildable, fresh, State.powerOn, InitStage.written], fun h => Bool.noConfusion h⟩

/-- The invariant after INIT. -/
theorem ready_inv (port : List PortItem) (answers : List TransportDraw) : (ready port answers).Inv where
  unbound h := Bool.noConfusion h
  configured _ := rfl
  free _ := ⟨rfl, rfl⟩
  busy _ h := by cases h
  notPending _ := rfl
  observed := ⟨_, rfl, by simp [Observer.sized, chip, ready, fresh, State.powerOn, build],
    by simp [chip, ready, fresh, State.powerOn], by simp [ready, fresh, State.powerOn, InitStage.written],
    fun _ => ⟨rfl, rfl, rfl, rfl⟩⟩

/-- The invariant within a first INIT. -/
theorem constructing_inv (port : List PortItem) : (constructing port).Inv where
  unbound _ := ⟨rfl, rfl, rfl⟩
  configured h := Bool.noConfusion h
  free h := by cases h
  busy _ h := .inl ⟨(Option.some.inj h).symm, rfl, InitStage.noConfusion, rfl⟩
  notPending _ := rfl
  observed := ⟨_, rfl, by simp [Observer.sized, chip, constructing, fresh, State.powerOn, build],
    by simp [chip, constructing, fresh, State.powerOn],
    by simp [constructing, InitStage.written, LineBank.get], fun h => Bool.noConfusion h⟩

/-- The invariant while a transmission is in flight. -/
theorem waiting_inv (bs : List Byte) (answers : List TransportDraw) : (waiting bs answers).Inv where
  unbound h := Bool.noConfusion h
  configured _ := rfl
  free h := by cases h
  busy _ h := .inr ⟨bs, (Option.some.inj h).symm, Phase.noConfusion, rfl, fun _ => rfl⟩
  notPending h := absurd rfl h
  observed := ⟨_, rfl, by simp [Observer.sized, chip, waiting, ready, fresh, State.powerOn, build],
    by simp [waiting], by simp [waiting, ready, fresh, State.powerOn, InitStage.written],
    fun _ => ⟨rfl, rfl, rfl, rfl⟩⟩

/-- The invariant after BLANK has been set. -/
theorem blanked_inv (bs : List Byte) : (blanked bs).Inv where
  unbound h := Bool.noConfusion h
  configured _ := rfl
  free h := by cases h
  busy _ h := .inr ⟨bs, (Option.some.inj h).symm, Phase.noConfusion, rfl, fun h => Phase.noConfusion h⟩
  notPending _ := rfl
  observed := ⟨_, rfl, by simp [Observer.sized, chip, blanked, ready, fresh, State.powerOn, build],
    by simp [blanked, chip], by simp [blanked, ready, fresh, State.powerOn, InitStage.written],
    fun _ => ⟨rfl, rfl⟩⟩

/-- The invariant before the response of an APPLY_FRAME. -/
theorem clocked_inv (bs : List Byte) : (clocked bs).Inv where
  unbound h := Bool.noConfusion h
  configured _ := rfl
  free h := by cases h
  busy _ h := .inr ⟨bs, (Option.some.inj h).symm, Phase.noConfusion, rfl, fun h => Phase.noConfusion h⟩
  notPending _ := rfl
  observed := ⟨_, rfl, by simp [Observer.sized, chip, clocked, ready, fresh, State.powerOn, build],
    by simp [clocked, chip], by simp [clocked, ready, fresh, State.powerOn, InitStage.written],
    fun _ => ⟨rfl, rfl⟩⟩

theorem witness_DecodeReadsBackEncode :
    Instr.WellFormed (.packChannelValues [4096, 65535]) ∧ Instr.WellFormed (.packBits [true]) := by
  decide

theorem witness_DecodedCommandReencodes :
    (decode { header := 0x02000008#32, payload := [0xB1#8] } =
        .ok (.packBits [true, false, true, true, false, false, false, true]) ∧
      ({ header := 0x02000008#32, payload := [0xB1#8] } : Frame).len % 8 = 0) ∧
    (decode { header := 0x05000001#32, payload := [0x0F#8, 0xFF#8] } = .ok (.packChannelValues [4095]) ∧
      5 ≤ ({ header := 0x05000001#32, payload := [0x0F#8, 0xFF#8] } : Frame).opc.toNat) := by decide

theorem witness_PadBitsDoNotMatter :
    ∃ f g : Frame, f ≠ g ∧ f.header = g.header ∧ f.payload.length = g.payload.length ∧
      2 ≤ f.opc.toNat ∧ f.opc.toNat ≤ 4 ∧ ∀ i, i < f.len →
        (f.payload.getD (i / 8) 0#8).getLsbD (7 - i % 8) =
          (g.payload.getD (i / 8) 0#8).getLsbD (7 - i % 8) :=
  ⟨{ header := 0x04000004#32, payload := [0xB7#8] }, { header := 0x04000004#32, payload := [0xB0#8] },
    by decide, rfl, rfl, by decide, by decide, by decide⟩

theorem witness_StepRunsDecodedCommand :
    (∃ s f rest i, State.cmd s = none ∧ s.port = .frame f :: rest ∧ decode f = .ok i) ∧
    (∃ s i rest, State.cmd s = none ∧ s.port = .term i :: rest) ∧
    (∃ s i, State.cmd s = some i) ∧ (∃ s, State.cmd s = none ∧ s.port = []) :=
  ⟨⟨fresh [.frame (encode .init)] [], _, _, .init, rfl, rfl, by decide⟩,
    ⟨fresh [.term .init] [], _, _, rfl, rfl⟩, ⟨waiting [] [], _, rfl⟩, ⟨State.reset, rfl, rfl⟩⟩

theorem witness_PlacedWordRunsNext : decodeTableWord 32 0x06000000 = some (.applyFrame []) := by decide

theorem witness_RejectedCommandOnlyAnswers :
    ∃ s f rest e, State.cmd s = none ∧ s.phase = .idle ∧ s.port = .frame f :: rest ∧
      decode f = .error e :=
  ⟨fresh [.frame { header := 0#32, payload := [] }] [], _, _, .reservedOpcode, rfl, rfl, rfl, by decide⟩

theorem witness_OverlappingCommandIsHeld :
    ∃ s t i, State.cmd s = some i ∧ s.port ≠ [] ∧ step s = .next t :=
  ⟨{ waiting [] [.ok] with port := [.term .init] }, _, _, rfl, by decide, rfl⟩

theorem witness_OneResponseEndsACommand :
    (∃ s t, step s = .next t ∧ t.responses ≠ s.responses) ∧
    (∃ s t, step s = .next t ∧ t.responses = s.responses ∧ t.cmd = some .init) ∧
    (∃ s t, step s = .next t ∧ t.responses = s.responses ∧ t.cmd = some (.applyFrame [])) :=
  ⟨⟨fresh [.term (.packBits [])] [], _, rfl, by decide⟩,
    ⟨fresh [.term .init] [], _, rfl, rfl, rfl⟩,
    ⟨ready [.term (.applyFrame [])] [], _, rfl, rfl, rfl⟩⟩

theorem witness_OnlyListedErrorsAreAnswered :
    ∃ s t, step s = .next t ∧ t.responses = s.responses ++ [.err .inputShapeError 2] :=
  ⟨fresh [.term (.expandOutputs [])] [], _, rfl, by decide⟩

theorem witness_ErrorWritesNothingElse :
    (∃ s t, State.Inv s ∧ step s = .next t ∧ t.responses = s.responses ++ [.err .notInitialized 0]) ∧
    (∃ s t, State.Inv s ∧ step s = .next t ∧ t.responses = s.responses ++ [.err .transportError 0]) :=
  ⟨⟨fresh [.term (.applyFrame [])] [], _, fresh_inv _ _, rfl, by decide⟩,
    ⟨waiting [0x55#8] [.err], _, waiting_inv _ _, rfl, by decide⟩⟩

theorem witness_EventsReachTraceAndChips :
    (∃ s t, step s = .next t ∧ t.trace.length = s.trace.length + 1) ∧
    (∃ s t, step s = .next t ∧ t.trace.length = s.trace.length + 2) :=
  ⟨⟨fresh [.term .init] [], _, rfl, by decide⟩, ⟨waiting [] [.ok], _, rfl, by decide⟩⟩

theorem witness_PackAndUnpackAreInverse : (List.replicate 16 true).length % 8 = 0 := by decide

theorem witness_FirstBitIsBitSeven : 8 * 1 + 8 ≤ (List.replicate 16 true).length ∧ 7 < 8 := by decide

theorem witness_ChannelsEnterLastFirst :
    [5, 4095][0]? = some 5 ∧ [5, 4095][1]? = some 4095 ∧ [true, false][1]? = some false := by decide

theorem witness_StreamPositionOfEachBit : 23 < 12 * [5, 4095].length ∧ 1 < [5, 4095].length ∧ 11 < 12 := by
  decide

theorem witness_PairOfValuesFillsThreeBytes :
    2 * 0 + 2 ≤ [5, 4095].length ∧ [5, 4095].length % 2 = 0 ∧ (∀ v ∈ [5, 4095], v ≤ 4095) ∧
      [5, 4095][[5, 4095].length - 1 - 2 * 0]? = some 4095 ∧
      [5, 4095][[5, 4095].length - 2 - 2 * 0]? = some 5 := by decide

theorem witness_PackedFrameLengths :
    1 ≤ 2 ∧ (List.replicate 32 true).length = 16 * 2 ∧ (List.replicate 32 4095).length = 16 * 2 ∧
      ∀ x ∈ List.replicate 32 4095, x ≤ 4095 := by decide

theorem witness_OnOffIsASpecialCase :
    (List.replicate 16 true).length ≠ 0 ∧ (List.replicate 16 true).length % 16 = 0 := by decide

theorem witness_PackedFrameUnpacks :
    (List.replicate 16 4095).length ≠ 0 ∧ (List.replicate 16 4095).length % 16 = 0 ∧
      ∀ x ∈ List.replicate 16 4095, x ≤ 4095 := by decide

theorem witness_PackBitsAnswers : (fresh [] []).phase = .idle := rfl

theorem witness_ExpandOutputsAnswers : (ready [] []).phase = .idle := rfl

theorem witness_SimpleByteArrayAnswers : (fresh [.term .init] []).phase = .idle := rfl

theorem witness_PackChannelValuesAnswers : State.reset.phase = .idle := rfl

theorem witness_BitPackerReadsNoBlockState :
    Instr.packBits [true] ≠ .init ∧ (∀ bs, Instr.packBits [true] ≠ .applyFrame bs) ∧
      (fresh [] []).phase = .idle ∧ (ready [] []).phase = .idle ∧
      (fresh [] []).params.legacyTruncate = (ready [] []).params.legacyTruncate :=
  ⟨by decide, fun _ h => Instr.noConfusion h, rfl, rfl, rfl⟩

theorem witness_SetLineDrivesAndEmits : Line.xlat ≠ Line.blank := by decide

theorem witness_InitConstructs :
    (∃ s, State.initStage s = .start ∧ s.params.configValid = true) ∧
    ∀ st : InitStage, ∃ s, State.initStage s = st :=
  ⟨⟨fresh [] [], rfl, rfl⟩, fun st => ⟨{ fresh [] [] with initStage := st }, rfl⟩⟩

theorem witness_InitRejectsBadConfiguration :
    ∃ s, (State.params s).configValid = false ∧ s.phase = .idle ∧ s.initStage = .start :=
  ⟨State.powerOn { build with configValid := false }, rfl, rfl, rfl⟩

theorem witness_InitAtTheChips :
    ∃ s o, (State.params s).configValid = true ∧ s.initStage = .start ∧ s.obs = some o ∧
      o.lvl = { gsclk := false, blank := true, vprg := false, xlat := false } :=
  ⟨ready [] [], _, rfl, rfl, rfl, rfl⟩

theorem witness_ApplyFrameNeedsInit : ∃ s, State.phase s = .idle ∧ s.bound = false :=
  ⟨fresh [] [], rfl, rfl⟩

theorem witness_ApplyFrameMicroSteps :
    (∃ s, State.phase s = .idle ∧ s.bound = true) ∧ (∃ s, State.phase s = .idle ∧ s.bound = false) ∧
    (∃ s t, State.phase s = .idle ∧ exec .init s = .next t) ∧
    (∃ s, State.phase s = .transmitting ∧ s.transportDraw = .ok) ∧
    (∃ s, State.phase s = .transmitting ∧ s.transportDraw = .err) ∧
    (∃ s, State.phase s = .transmitting ∧ s.transportDraw = .hang) ∧
    ∀ p : Phase, ∃ s, State.phase s = p :=
  ⟨⟨ready [] [], rfl, rfl⟩, ⟨fresh [] [], rfl, rfl⟩, ⟨fresh [] [], _, rfl, rfl⟩,
    ⟨waiting [] [.ok], rfl, rfl⟩, ⟨waiting [] [.err], rfl, rfl⟩,
    ⟨waiting [] [.hang], rfl, rfl⟩, fun p => ⟨{ ready [] [] with phase := p }, rfl⟩⟩

theorem witness_ApplyFrameCompletes :
    ∃ s as, State.phase s = .idle ∧ s.bound = true ∧ s.answers = .ok :: as :=
  ⟨ready [] [.ok], _, rfl, rfl, rfl⟩

theorem witness_StepsCarryApplyFrameThrough :
    ∃ s bs rest as, State.cmd s = none ∧ s.phase = .idle ∧ s.bound = true ∧
      s.port = .term (.applyFrame bs) :: rest ∧ s.answers = .ok :: as :=
  ⟨ready [.term (.applyFrame [0xAA#8])] [.ok], _, _, _, rfl, rfl, rfl, rfl, rfl⟩

theorem witness_TransportErrorLeavesLines :
    ∃ s as o c, State.phase s = .idle ∧ s.bound = true ∧ s.answers = .err :: as ∧ s.obs = some o ∧
      s.serialCfg = some c :=
  ⟨ready [] [.err], _, _, _, rfl, rfl, rfl, rfl, rfl⟩

theorem witness_HungTransportIsStuck :
    ∃ s bs rest as, State.cmd s = none ∧ s.phase = .idle ∧ s.bound = true ∧
      s.port = .term (.applyFrame bs) :: rest ∧ s.answers = .hang :: as :=
  ⟨ready [.term (.applyFrame [0xAA#8])] [.hang], _, _, _, rfl, rfl, rfl, rfl, rfl⟩

theorem witness_FreeTransportDrawDecides :
    ∃ s, State.phase s = .idle ∧ s.bound = true ∧ s.answers = [] := ⟨ready [] [], rfl, rfl, rfl⟩

theorem witness_StepKeepsInv :
    (∃ s t, State.Inv s ∧ s.phase = .idle ∧ step s = .next t) ∧
    (∃ s t, State.Inv s ∧ s.initStage = .gsclkLow ∧ step s = .next t) ∧
    (∃ s t, State.Inv s ∧ s.phase = .transmitting ∧ step s = .next t) :=
  ⟨⟨ready [.term (.applyFrame [])] [], _, ready_inv _ _, rfl, rfl⟩,
    ⟨constructing [], _, constructing_inv _, rfl, rfl⟩,
    ⟨waiting [] [.ok], _, waiting_inv _ _, rfl, rfl⟩⟩

theorem witness_PhaseFollowsTheTable :
    (∃ s t, State.Inv s ∧ step s = .next t ∧ t.phase ≠ .idle) ∧
    (∃ s t, State.Inv s ∧ step s = .next t ∧ s.phase = .idle ∧ t.phase = .idle) ∧
    (∃ s t, State.Inv s ∧ step s = .next t ∧ s.phase = .idle ∧ t.phase = .transmitting) ∧
    (∃ s t, State.Inv s ∧ step s = .next t ∧ s.phase = .transmitting ∧ t.phase = .blanked) ∧
    (∃ s t, State.Inv s ∧ step s = .next t ∧ s.phase = .transmitting ∧ t.phase = .idle) ∧
    (∃ s t, State.Inv s ∧ step s = .next t ∧ s.phase = .blanked) ∧
    (∃ s t, State.Inv s ∧ step s = .next t ∧ s.phase = .clocked) :=
  ⟨⟨ready [.term (.applyFrame [])] [], _, ready_inv _ _, rfl, by decide⟩,
    ⟨constructing [], _, constructing_inv _, rfl, rfl, rfl⟩,
    ⟨ready [.term (.applyFrame [])] [], _, ready_inv _ _, rfl, rfl, rfl⟩,
    ⟨waiting [] [.ok], _, waiting_inv _ _, rfl, rfl, rfl⟩,
    ⟨waiting [] [.err], _, waiting_inv _ _, rfl, rfl, rfl⟩,
    ⟨blanked [], _, blanked_inv _, rfl, rfl⟩, ⟨clocked [], _, clocked_inv _, rfl, rfl⟩⟩

theorem witness_StepKeepsOrder :
    (∃ s t, State.Inv s ∧ State.Ordered s ∧ s.trace ≠ [] ∧ s.cmd = some .init ∧ step s = .next t) ∧
    (∃ s t, State.Inv s ∧ State.Ordered s ∧ s.trace ≠ [] ∧ s.phase = .transmitting ∧
      step s = .next t) :=
  ⟨⟨constructing [], _, constructing_inv _, ⟨[], [], fun h => absurd rfl h, rfl⟩, by decide, rfl, rfl⟩,
    ⟨waiting [0xAA#8] [.ok], _, waiting_inv _ _, ⟨[], [0xAA#8], fun _ => rfl, rfl⟩, by decide, rfl, rfl⟩⟩

/-- Both levels of XLAT, and both commands that write it. -/
theorem witness_LatchIsBlankedAndAfterTransmit :
    (∃ s pre post, State.Ordered s ∧ s.trace = pre ++ .setLine .xlat true :: post) ∧
    (∃ s pre post, State.Ordered s ∧ s.trace = .transmit [] :: pre ++ .setLine .xlat false :: post) ∧
    (∃ s pre post, State.Ordered s ∧
      s.trace = .setLine .gsclk false :: pre ++ .setLine .xlat false :: post) :=
  ⟨⟨{ ready [] [] with trace := applyFrameEvents [] },
      [.transmit [], .transportAnswer .ok, .setLine .blank true], _,
      ⟨[.applied []], [], fun h => absurd rfl h, rfl⟩, rfl⟩,
    ⟨{ ready [] [] with trace := applyFrameEvents [] },
      [.transportAnswer .ok, .setLine .blank true, .setLine .xlat true], _,
      ⟨[.applied []], [], fun h => absurd rfl h, rfl⟩, rfl⟩,
    ⟨{ ready [] [] with trace := initEvents }, [.setLine .blank true, .setLine .vprg false], _,
      ⟨[.init], [], fun h => absurd rfl h, rfl⟩, rfl⟩⟩

theorem witness_IdleLinesOnceBound :
    ∃ s, State.Inv s ∧ s.bound = true ∧ s.phase = .idle := ⟨ready [] [], ready_inv _ _, rfl, rfl⟩

theorem witness_OnlyControllerDrivesThePort :
    (∃ s t, exec .init s = .next t ∧ t.line ≠ s.line) ∧
    (∃ s t, exec (.applyFrame []) s = .next t ∧ t.line ≠ s.line) ∧
    (∃ s t, exec .init s = .next t ∧ t.serialCfg ≠ s.serialCfg) ∧
    (∃ s t, exec .init s = .next t ∧ t.bound ≠ s.bound) ∧
    (∃ s t, exec .init s = .next t ∧ t.line.vprg ≠ s.line.vprg) :=
  ⟨⟨fresh [] [], _, rfl, by decide⟩, ⟨blanked [], _, rfl, by decide⟩,
    ⟨{ fresh [] [] with initStage := .xlatLow }, _, rfl, by decide⟩,
    ⟨{ fresh [] [] with initStage := .configured }, _, rfl, by decide⟩,
    ⟨{ fresh [] [] with initStage := .blankHigh }, _, rfl, by decide⟩⟩

theorem witness_BindingIsForGood :
    (∃ s t, step s = .next t ∧ State.bound s = true) ∧
    (∃ s t, State.Inv s ∧ s.params.configValid = false ∧ step s = .next t ∧ t.responses ≠ s.responses) :=
  ⟨⟨ready [] [], _, rfl, rfl⟩, ⟨unbuildable, _, unbuildable_inv, rfl, rfl, by decide⟩⟩

theorem witness_BinaryResponseFormat :
    (Payload.bits (List.replicate 9 true)).count ≤ 16777215 ∧
      15 < 8 * (((List.replicate 9 true).length + 7) / 8) ∧ 3 ≤ 16777215 := by decide

theorem witness_StatusCodes : 6 ≤ (0x06#8).toNat ∧ 6 ≤ (0xFF#8).toNat := by decide

theorem witness_ShiftMovesTowardFarEnd :
    0 < [false, true].length ∧ 0 < [true].length ∧ 1 < [false, true].length ∧ ¬ 1 < [true].length := by
  decide

theorem witness_WireOrderIsByteZeroBitSevenFirst : 
    [0xAA#8][0]? = some 0xAA#8 ∧ 7 < 8 ∧ (List.replicate 16 4095).length % 16 = 0 := by decide

theorem witness_LatchCopiesShiftRegister :
    ∀ v : Bit, ∃ ob : Observer, ob.lvl.xlat = true ∧ ob.sr.length = 192 * 1 ∧ ob.lvl.vprg = v :=
  fun v => ⟨{ chip true with lvl := { gsclk := false, blank := true, vprg := v, xlat := true } }, rfl,
    by simp [chip], rfl⟩

theorem witness_LevelsAtTheChips :
    (chip true).lvl.gsclk = false ∧ (chip true).lvl.blank = true := ⟨rfl, rfl⟩

theorem witness_FrameIsDelivered :
    1 ≤ 1 ∧ (List.replicate 16 4095).length = 16 * 1 ∧
      packChannelValues (List.replicate 16 4095) = .ok (.bytes (List.replicate 24 0xFF#8)) ∧
      (chip true).sr.length = 192 * 1 := by decide

theorem witness_RepeatedFrameLeavesSameBits :
    (List.replicate 192 true).length = 192 * 1 ∧ (List.replicate 24 0xAA#8).length = 24 * 1 := by decide

theorem witness_FrameReachesTheOutputs :
    ∃ s bs rest as ob, (State.params s).configValid = true ∧ s.cmd = none ∧ s.phase = .idle ∧
      s.initStage = .start ∧
      1 ≤ s.params.nChips ∧ (List.replicate 16 4095).length = 16 * s.params.nChips ∧
      packChannelValues (List.replicate 16 4095) = .ok (.bytes bs) ∧
      s.port = .term .init :: .term (.applyFrame bs) :: rest ∧ s.answers = .ok :: as ∧
      s.obs = some ob ∧ ob.sized s.params.nChips :=
  ⟨fresh [.term .init, .term (.applyFrame (List.replicate 24 0xFF#8))] [.ok], List.replicate 24 0xFF#8,
    [], [], Observer.powerOn 1, rfl, rfl, rfl, rfl, by decide, by decide, by decide, rfl, rfl, rfl,
    by simp [Observer.sized, Observer.powerOn, fresh, State.powerOn, build]⟩

theorem witness_AcceptedLiteralsFit :
    Asm.bitsOperand [.str ['1', '0']] = .ok (.lit [true, false]) ∧
    Asm.bytesOperand [.hexStr ['0', 'F']] = .ok (.lit [0x0F#8]) ∧
    Asm.valuesOperand [.lbr, .num 65535, .rbr] = .ok (.lit [65535]) := by decide

theorem witness_FailedVariableStopsProgram :
    ∃ (x : Asm.Var) (st : Asm.Stmt) (h : Asm.HostRun), h.vars ≠ [] ∧ h.vars.payload x = none ∧
      st.cmd = .applyFrame (.var x) :=
  ⟨.named ['u'], { dest := none, cmd := .applyFrame (.var (.named ['u'])), stopOnErr := false },
    { vars := [(.named ['u'], none)], st := fresh [] [] }, by decide, by decide, rfl⟩

theorem witness_FrameAndTermAreServedAlike :
    ∃ s, Instr.WellFormed (.packBits [true]) ∧ State.cmd s = none ∧ s.port = [] :=
  ⟨fresh [] [], by decide, rfl, rfl⟩

end Sys2Proof.Tests
end

/-! The family of the scope: how a command's micro-steps (R13) become steps of the machine, INIT's six
(R190, R191), APPLY_FRAME's eight (R188, R199), and the phases and event counts of every step. -/

namespace Sys2Proof.Machine

/-! ### Micro-steps of a command and steps of the machine (R13, R43, R189) -/

/-- R189: with a command in the slot the step is that command's next micro-step. -/
theorem step_busy {i : Instr} {s : State} (h : s.cmd = some i) : step s = exec i s := by
  simp only [step, State.fetch, h]

/-- R43: with the slot empty the step accepts the term first at the port and runs its first micro-step. -/
theorem step_accepts {i : Instr} {s : State} {rest : List PortItem} (hc : s.cmd = none)
    (hp : s.port = .term i :: rest) : step s = exec i { s with port := rest, cmd := some i } := by
  simp only [step, State.fetch, hc, hp, State.accept]

theorem execTimes_one (i : Instr) (s : State) : execTimes i 1 s = exec i s := by
  simp only [execTimes]
  cases exec i s <;> rfl

/-- Micro-steps go on from the state the first one leaves. -/
theorem execTimes_next {i : Instr} {s t : State} (n : Nat) (h : exec i s = .next t) :
    execTimes i (n + 1) s = execTimes i n t := by
  simp only [execTimes, h]

/-- A run of micro-steps that reaches a next state had a next state at its first. -/
theorem execTimes_succ_next {i : Instr} {n : Nat} {s t : State}
    (h : execTimes i (n + 1) s = .next t) : ∃ u, exec i s = .next u ∧ execTimes i n u = .next t := by
  unfold execTimes at h
  split at h
  · exact ⟨_, ‹_›, h⟩
  · cases h
  · cases h

/-- One more micro-step is taken in the state the micro-steps before it leave. -/
theorem execTimes_succ_last {i : Instr} {n : Nat} {s t : State} (h : execTimes i n s = .next t) :
    execTimes i (n + 1) s = exec i t := by
  induction n generalizing s with
  | zero => cases h; exact execTimes_one i _
  | succ n ih =>
    obtain ⟨u, hu, ht⟩ := execTimes_succ_next h
    rw [execTimes_next _ hu, ih ht]

/-- R43: a micro-step leaves the command slot as it is, or frees it. -/
theorem exec_cmd {i : Instr} {s t : State} (h : exec i s = .next t) :
    t.cmd = none ∨ t.cmd = s.cmd := by
  obtain ⟨r, -, rfl⟩ | ⟨-, hi⟩ | ⟨bs, -, ha⟩ := exec_cases h
  · simp
  · obtain ⟨-, -, rfl⟩ | ⟨-, -, rfl⟩ | ⟨-, rfl⟩ | ⟨-, rfl⟩ | ⟨-, rfl⟩ | ⟨-, rfl⟩ | ⟨-, rfl⟩ :=
      execInit_cases hi <;> simp
  · obtain ⟨-, -, rfl⟩ | ⟨-, -, rfl⟩ | ⟨-, -, rfl⟩ | ⟨-, -, rfl⟩ | ⟨-, rfl⟩ | ⟨-, rfl⟩ | ⟨-, rfl⟩ |
      ⟨-, rfl⟩ | ⟨-, rfl⟩ | ⟨-, rfl⟩ := execApplyFrame_cases ha <;> simp

/-- R43: so do any number of them: a slot once freed stays free. -/
theorem execTimes_cmd {i : Instr} {n : Nat} {s t : State} (h : execTimes i n s = .next t) :
    t.cmd = none ∨ t.cmd = s.cmd := by
  induction n generalizing s with
  | zero => cases h; exact .inr rfl
  | succ n ih =>
    obtain ⟨u, hu, ht⟩ := execTimes_succ_next h
    obtain hn | hk := ih ht
    · exact .inl hn
    · rw [hk]
      exact exec_cmd hu

/-- R13, R189: while a command holds the slot, the steps of the machine are its micro-steps, the last one,
which may free the slot, among them. -/
theorem run_eq_execTimes {i : Instr} {n : Nat} {s t : State} (hs : s.cmd = some i)
    (hn : execTimes i n s = .next t) (ht : t.cmd = some i) :
    Host.Core.run Sys2Proof.core (n + 1) s = execTimes i (n + 1) s := by
  induction n generalizing s with
  | zero =>
    have hcore : Sys2Proof.core.step s = exec i s := step_busy hs
    rw [execTimes_one]
    simp only [Host.Core.run, hcore]
    cases exec i s <;> rfl
  | succ n ih =>
    obtain ⟨u, hu, hut⟩ := execTimes_succ_next hn
    have huc : u.cmd = some i := by
      obtain h0 | hk := execTimes_cmd hut
      · rw [ht] at h0; cases h0
      · rw [← hk, ht]
    rw [run_next _ ((step_busy hs).trans hu), execTimes_next _ hu, ih huc hut]

/-- R13, R43: so are they from the step that accepts the command. -/
theorem run_term_eq_execTimes {i : Instr} {n : Nat} {s t : State} {rest : List PortItem}
    (hc : s.cmd = none) (hp : s.port = .term i :: rest)
    (hn : execTimes i n { s with port := rest, cmd := some i } = .next t) (ht : t.cmd = some i) :
    Host.Core.run Sys2Proof.core (n + 1) s =
      execTimes i (n + 1) { s with port := rest, cmd := some i } :=
  (run_congr n ((step_accepts hc hp).trans (step_busy rfl).symm)).trans (run_eq_execTimes rfl hn ht)

/-! ### INIT (R190, R191) -/

/-- R190: the first micro-step of an INIT with a valid configuration. -/
theorem exec_init_start {s : State} (h : s.initStage = .start) (hv : s.params.configValid = true) :
    exec .init s = .next { s.setLine .gsclk false with initStage := .gsclkLow } := by
  simp only [exec, execInit, h, hv, if_true]

theorem exec_init_gsclkLow {s : State} (h : s.initStage = .gsclkLow) :
    exec .init s = .next { s.setLine .blank true with initStage := .blankHigh } := by
  simp only [exec, execInit, h]

theorem exec_init_blankHigh {s : State} (h : s.initStage = .blankHigh) :
    exec .init s = .next { s.setLine .vprg false with initStage := .vprgLow } := by
  simp only [exec, execInit, h]

theorem exec_init_vprgLow {s : State} (h : s.initStage = .vprgLow) :
    exec .init s = .next { s.setLine .xlat false with initStage := .xlatLow } := by
  simp only [exec, execInit, h]

theorem exec_init_xlatLow {s : State} (h : s.initStage = .xlatLow) :
    exec .init s = .next
      { s.configureSerial SerialCfg.standard with initStage := .configured } := by
  simp only [exec, execInit, h]

/-- R191: the last micro-step binds and answers. -/
theorem exec_init_configured {s : State} (h : s.initStage = .configured) :
    exec .init s = .next
      (({ s with bound := true, initStage := .start } : State).returnOk .noData) := by
  simp only [exec, execInit, h]

/-- What the chips see of an INIT: four line writes; the configuration is none of their business (R182). -/
theorem Observer.bind_seeAll_initEvents (cfg : Option SerialCfg) (ob : Option Observer) :
    (ob.bind fun o => o.seeAll cfg initEvents) =
      (((ob.bind fun o => o.seeLine .gsclk false).bind fun o => o.seeLine .blank true).bind
        fun o => o.seeLine .vprg false).bind fun o => o.seeLine .xlat false := by
  simp [initEvents, Option.bind_assoc]

/-- R190, R191: the whole of an INIT with a valid configuration, from its first micro-step to its response. -/
theorem execTimes_init {s : State} (h : s.initStage = .start) (hv : s.params.configValid = true) :
    execTimes .init 6 s = .next { s with
      line := { gsclk := some false, blank := some true, vprg := some false, xlat := some false }
      serialCfg := some SerialCfg.standard
      bound := true
      cmd := none
      trace := s.trace ++ initEvents
      responses := s.responses ++ [.ok .noData]
      obs := s.obs.bind fun o => o.seeAll s.serialCfg initEvents } := by
  rw [execTimes_next 5 (exec_init_start h hv), execTimes_next 4 (exec_init_gsclkLow rfl),
    execTimes_next 3 (exec_init_blankHigh rfl), execTimes_next 2 (exec_init_vprgLow rfl),
    execTimes_next 1 (exec_init_xlatLow rfl), execTimes_one, exec_init_configured rfl,
    Observer.bind_seeAll_initEvents, h]
  simp [State.returnOk, State.respond, State.configureSerial, State.setLine, State.emit, LineBank.set,
    initEvents]

/-- Settles O27, stage by stage, and the six micro-steps together by `execTimes_init`. -/
theorem initConstructs : Obligations.InitConstructs := by
  intro s
  refine ⟨exec_init_start, exec_init_gsclkLow, exec_init_blankHigh, exec_init_vprgLow, fun h => ?_,
    exec_init_configured, execTimes_init⟩
  rw [exec_init_xlatLow h, ← State.configureSerial_obs SerialCfg.standard s]
  rfl

/-! ### APPLY_FRAME -/

/-- R188, row Idle. -/
theorem exec_applyFrame_idle {bs : List Byte} {s : State} (hp : s.phase = .idle)
    (hb : s.bound = true) : exec (.applyFrame bs) s = .next (s.beginTransmit bs) := by
  simp only [exec, execApplyFrame, hp, applyFrameStart, hb, if_true]

/-- R188, row Transmitting with a known answer `Ok`. -/
theorem exec_applyFrame_ok {bs : List Byte} {s : State} {as : List TransportDraw}
    (hp : s.phase = .transmitting) (ha : s.answers = .ok :: as) :
    exec (.applyFrame bs) s = .next
      { (({ s with answers := as } : State).endTransmit .ok).setLine .blank true with
        phase := .blanked } := by
  simp only [exec, execApplyFrame, hp, applyFrameAnswer, State.transportDraw, ha, State.takeDraw]

/-- R188, the five pulse rows: each has one line write and goes to the next phase. -/
theorem execTimes_applyFrame_pulses {bs : List Byte} {s : State} (hp : s.phase = .blanked) :
    execTimes (.applyFrame bs) 5 s = .next
      { ((((s.setLine .xlat true).setLine .xlat false).setLine .blank false).setLine .gsclk
          true).setLine .gsclk false with phase := .clocked } := by
  have row1 : exec (.applyFrame bs) s = .next { s.setLine .xlat true with phase := .latchHigh } := by
    simp only [exec, execApplyFrame, hp]
  rw [execTimes_next 4 row1]
  rfl

theorem exec_applyFrame_clocked {bs : List Byte} {s : State} (hp : s.phase = .clocked) :
    exec (.applyFrame bs) s = .next (({ s with phase := .idle } : State).returnOk .noData) := by
  simp only [exec, execApplyFrame, hp]

/-- R188, R199: an APPLY_FRAME answered `Ok` has its eight events after seven micro-steps, and keeps the slot. -/
theorem execTimes_applyFrame_clocked {bs : List Byte} {s : State} {as : List TransportDraw}
    (hp : s.phase = .idle) (hb : s.bound = true) (ha : s.answers = .ok :: as) :
    execTimes (.applyFrame bs) 7 s = .next { s with
      line := { gsclk := some false, blank := some false, vprg := s.line.vprg, xlat := some false }
      phase := .clocked
      pending := []
      trace := s.trace ++ applyFrameEvents bs
      answers := as
      obs := s.obs.bind fun o => o.seeAll s.serialCfg (applyFrameEvents bs) } := by
  rw [execTimes_next 6 (exec_applyFrame_idle hp hb), execTimes_next 5
    (exec_applyFrame_ok (s := s.beginTransmit bs) rfl ha), execTimes_applyFrame_pulses rfl]
  simp [State.beginTransmit, State.endTransmit, State.setLine, State.emit, LineBank.set,
    applyFrameEvents, Option.bind_assoc]

/-- R199: the eighth micro-step of an APPLY_FRAME answered `Ok` only answers. -/
theorem execTimes_applyFrame_ok {bs : List Byte} {s : State} {as : List TransportDraw}
    (hp : s.phase = .idle) (hb : s.bound = true) (ha : s.answers = .ok :: as) :
    execTimes (.applyFrame bs) 8 s = .next { s with
      line := { gsclk := some false, blank := some false, vprg := s.line.vprg, xlat := some false }
      pending := []
      cmd := none
      trace := s.trace ++ applyFrameEvents bs
      responses := s.responses ++ [.ok .noData]
      answers := as
      obs := s.obs.bind fun o => o.seeAll s.serialCfg (applyFrameEvents bs) } := by
  rw [execTimes_succ_last (execTimes_applyFrame_clocked hp hb ha), exec_applyFrame_clocked rfl, hp]
  rfl

/-- Settles O33: the first step accepts the command, which then holds the slot for all of its eight
micro-steps. -/
theorem stepsCarryApplyFrameThrough : Obligations.StepsCarryApplyFrameThrough := by
  intro bs s rest as hc hp hb hport ha
  rw [hc]
  exact (run_term_eq_execTimes hc hport (execTimes_applyFrame_clocked hp hb ha) rfl).trans
    (execTimes_applyFrame_ok hp hb ha)

/-! ### Phases and event counts (R188, R193) -/

/-- What a step can do to the phase `p` and the trace `tr` it begins with, `t` being the state it leaves. -/
inductive PhaseRow (p : Phase) (tr : List Event) (t : State) : Prop where
  /-- R37: a step within Idle; INIT's micro-steps have at most one event each. -/
  | withinIdle (hp : p = .idle) (ht : t.phase = .idle) (hn : t.trace.length ≤ tr.length + 1)
  /-- R188: an APPLY_FRAME goes on to the next phase, with the events between the two. -/
  | onward (bs : List Byte) (hc : t.cmd = some (.applyFrame bs))
      (hrow : (p, t.phase) ∈ [(Phase.idle, Phase.transmitting), (.transmitting, .blanked),
        (.blanked, .latchHigh), (.latchHigh, .latched), (.latched, .unblanked),
        (.unblanked, .clockHigh), (.clockHigh, .clocked)])
      (hn : t.trace.length + p.emitted = tr.length + t.phase.emitted)
  /-- R194: the transport answers `Err`. -/
  | failed (hp : p = .transmitting) (ht : t.phase = .idle) (hn : t.trace.length = tr.length + 1)
  /-- R188: the last row, with no event (log entry 29). -/
  | answered (hp : p = .clocked) (ht : t.phase = .idle) (htr : t.trace = tr)

/-- A command whose only effect is its response ends in Idle and leaves the trace. -/
theorem PhaseRow.of_conclude {s : State} (hp : s.phase = .idle) (r : Response) :
    PhaseRow s.phase s.trace (s.conclude r) :=
  .withinIdle hp (by rw [State.conclude_idle hp]; exact hp) (by simp)

/-- R190, R37: a micro-step of INIT stays within Idle. -/
theorem PhaseRow.of_execInit {s t : State} (hp : s.phase = .idle) (h : execInit s = .next t) :
    PhaseRow s.phase s.trace t := by
  obtain ⟨-, -, rfl⟩ | ⟨-, -, rfl⟩ | ⟨-, rfl⟩ | ⟨-, rfl⟩ | ⟨-, rfl⟩ | ⟨-, rfl⟩ | ⟨-, rfl⟩ :=
    execInit_cases h <;> exact .withinIdle hp (by simp [hp]) (by simp)

/-- R188: every micro-step of an APPLY_FRAME is a row of the table. -/
theorem PhaseRow.of_execApplyFrame {bs : List Byte} {s t : State} (hc : s.cmd = some (.applyFrame bs))
    (h : execApplyFrame bs s = .next t) : PhaseRow s.phase s.trace t := by
  obtain ⟨hp, -, rfl⟩ | ⟨hp, -, rfl⟩ | ⟨hp, -, rfl⟩ | ⟨hp, -, rfl⟩ | ⟨hp, rfl⟩ | ⟨hp, rfl⟩ |
    ⟨hp, rfl⟩ | ⟨hp, rfl⟩ | ⟨hp, rfl⟩ | ⟨hp, rfl⟩ := execApplyFrame_cases h
  · exact .onward bs (by simp [hc]) (by simp [hp]) (by simp [hp, Phase.emitted])
  · exact .withinIdle hp (by simp) (by simp)
  · exact .onward bs (by simp [hc]) (by simp [hp]) (by simp [hp, Phase.emitted])
  · exact .failed hp (by simp) (by simp)
  iterate 5 exact .onward bs (by simp [hc]) (by simp [hp]) (by simp [hp, Phase.emitted])
  · exact .answered hp (by simp) (by simp)

/-- R37, R43: under the invariant the command a step runs is an APPLY_FRAME, or the block is Idle. -/
theorem State.Inv.idle_or_applyFrame {s s' : State} {i : Instr} (hI : s.Inv)
    (hf : s.fetch = .run i s') : s.phase = .idle ∨ ∃ bs, i = .applyFrame bs := by
  obtain ⟨hc, -⟩ | ⟨hc, -⟩ := State.fetch_run hf
  · obtain ⟨-, hp, -⟩ | ⟨bs, hi, -⟩ := hI.busy i hc
    · exact .inl hp
    · exact .inr ⟨bs, hi⟩
  · exact .inl (hI.free hc).1

/-- What every step does to the phase and the trace, under the invariant. -/
theorem PhaseRow.of_step {s t : State} (hI : s.Inv) (h : step s = .next t) :
    PhaseRow s.phase s.trace t := by
  obtain ⟨i, s', hf, he⟩ | ⟨hc, -, rfl⟩ | ⟨hc, f, rest, e, -, -, rfl⟩ := step_cases h
  · obtain ⟨hc', -, -, -, hp, -, htr, -⟩ := State.fetch_run_keeps hf
    rw [← hp, ← htr]
    obtain ⟨r, hr, rfl⟩ | ⟨rfl, hi⟩ | ⟨bs, rfl, ha⟩ := exec_cases he
    · obtain h0 | ⟨bs, rfl⟩ := hI.idle_or_applyFrame hf
      · exact .of_conclude (hp.trans h0) r
      · cases hr
    · obtain h0 | ⟨bs, hi'⟩ := hI.idle_or_applyFrame hf
      · exact .of_execInit (hp.trans h0) hi
      · cases hi'
    · exact .of_execApplyFrame hc' ha
  · exact .withinIdle (hI.free hc).1 (hI.free hc).1 (Nat.le_succ _)
  · exact .withinIdle (hI.free hc).1 (by simp) (by simp)

/-- Settles O40: each clause is read off the row the step takes. -/
theorem phaseFollowsTheTable : Obligations.PhaseFollowsTheTable := by
  intro s t hI h
  cases PhaseRow.of_step hI h with
  | withinIdle hp ht hn => simp [hp, ht, hn, Sys2Proof.SpecTable.transitions]
  | onward bs hc hrow hn =>
    simp only [List.mem_cons, Prod.mk.injEq, List.not_mem_nil, or_false] at hrow
    obtain ⟨hp, ht⟩ | ⟨hp, ht⟩ | ⟨hp, ht⟩ | ⟨hp, ht⟩ | ⟨hp, ht⟩ | ⟨hp, ht⟩ | ⟨hp, ht⟩ := hrow <;>
      simp [hp, ht, hc, Phase.emitted, Sys2Proof.SpecTable.transitions] at hn ⊢ <;> omega
  | failed hp ht hn => simp [hp, ht, hn, Sys2Proof.SpecTable.transitions]
  | answered hp ht htr => simp [hp, ht, htr, Sys2Proof.SpecTable.transitions]

end Sys2Proof.Machine

/-! The family of the state: power-on (R45), what a step runs (R43, R189), what it shows at the port (R41, R88),
who writes lines, configuration and binding (R33 to R36), and the invariant every step keeps. -/

namespace Sys2Proof.Machine

/-! ### What a step runs (R43, R189, R270) -/

/-- R109: with the slot empty the step accepts the decodable frame first at the port. -/
theorem step_accepts_frame {s : State} {f : Frame} {i : Instr} {rest : List PortItem}
    (hc : s.cmd = none) (hp : s.port = .frame f :: rest) (hd : decode f = .ok i) :
    step s = exec i { s with port := rest, cmd := some i } := by
  simp only [step, State.fetch, hc, hp, hd, State.accept]

/-- R270: with the slot and the port empty the block waits. -/
theorem step_waits {s : State} (hc : s.cmd = none) (hp : s.port = []) : step s = .next s := by
  simp only [step, State.fetch, hc, hp]

/-- Settles O7, by the four equations of a step. -/
theorem stepRunsDecodedCommand : Obligations.StepRunsDecodedCommand :=
  ⟨fun _ _ _ _ => step_accepts_frame, fun _ _ _ => step_accepts, fun _ _ => step_busy,
    fun _ => step_waits⟩

/-! ### What a step shows at the port (R41, R88) -/

/-- `t` has the trace of `s` followed by `evs`, and its chips are those of `s` having seen `evs`. -/
def State.Gains (s : State) (evs : List Event) (t : State) : Prop :=
  t.trace = s.trace ++ evs ∧ t.obs = s.obs.bind fun o => o.seeAll s.serialCfg evs

theorem State.gains_nil {s t : State} (ht : t.trace = s.trace) (ho : t.obs = s.obs) :
    s.Gains [] t := by
  simp [State.Gains, ht, ho]

theorem State.gains_one {s t : State} {e : Event} (ht : t.trace = s.trace ++ [e])
    (ho : t.obs = s.obs.bind fun o => o.see s.serialCfg e) : s.Gains [e] t := by
  simp [State.Gains, ht, ho]

/-- R190: a micro-step of INIT shows one event, or none. -/
theorem execInit_gains {s t : State} (h : execInit s = .next t) : ∃ evs, s.Gains evs t := by
  obtain ⟨-, -, rfl⟩ | ⟨-, -, rfl⟩ | ⟨-, rfl⟩ | ⟨-, rfl⟩ | ⟨-, rfl⟩ | ⟨-, rfl⟩ | ⟨-, rfl⟩ :=
    execInit_cases h
  · exact ⟨_, State.gains_one rfl rfl⟩
  · exact ⟨_, State.gains_nil rfl rfl⟩
  iterate 3 exact ⟨_, State.gains_one rfl rfl⟩
  · exact ⟨[.configureSerial SerialCfg.standard], State.gains_one rfl (by simp)⟩
  · exact ⟨_, State.gains_nil rfl rfl⟩

/-- R188: a row of APPLY_FRAME shows one event, two on `Ok`, and none with its response. -/
theorem execApplyFrame_gains {bs : List Byte} {s t : State} (h : execApplyFrame bs s = .next t) :
    ∃ evs, s.Gains evs t := by
  obtain ⟨-, -, rfl⟩ | ⟨-, -, rfl⟩ | ⟨-, -, rfl⟩ | ⟨-, -, rfl⟩ | ⟨-, rfl⟩ | ⟨-, rfl⟩ | ⟨-, rfl⟩ |
    ⟨-, rfl⟩ | ⟨-, rfl⟩ | ⟨-, rfl⟩ := execApplyFrame_cases h
  · exact ⟨_, State.gains_one rfl rfl⟩
  · exact ⟨_, State.gains_nil rfl rfl⟩
  · exact ⟨[.transportAnswer .ok, .setLine .blank true], by simp [State.Gains, Option.bind_assoc]⟩
  · exact ⟨_, State.gains_one (e := .transportAnswer .err) (by simp) (by simp)⟩
  iterate 5 exact ⟨_, State.gains_one rfl rfl⟩
  · exact ⟨_, State.gains_nil rfl rfl⟩

theorem exec_gains {i : Instr} {s t : State} (h : exec i s = .next t) : ∃ evs, s.Gains evs t := by
  obtain ⟨r, -, rfl⟩ | ⟨-, hi⟩ | ⟨bs, -, ha⟩ := exec_cases h
  · exact ⟨_, State.gains_nil (by simp) (by simp)⟩
  · exact execInit_gains hi
  · exact execApplyFrame_gains ha

/-- Settles O14: fetching shows nothing, and what the command then shows is `exec_gains`. -/
theorem eventsReachTraceAndChips : Obligations.EventsReachTraceAndChips := by
  intro s t h
  obtain ⟨i, s', hf, he⟩ | ⟨-, -, rfl⟩ | ⟨-, f, rest, e, -, -, rfl⟩ := step_cases h
  · obtain ⟨-, -, hcfg, -, -, -, htr, -, -, -, -, -, hobs⟩ := State.fetch_run_keeps hf
    rw [← htr, ← hobs, ← hcfg]
    exact exec_gains he
  · exact ⟨_, State.gains_nil rfl rfl⟩
  · exact ⟨_, State.gains_nil rfl rfl⟩

/-! ### Who writes lines, configuration and binding (R33 to R36) -/

/-- R33: INIT drives VPRG to 0 or leaves it. -/
theorem execInit_vprg {s t : State} (h : execInit s = .next t) :
    t.line.vprg = s.line.vprg ∨ t.line.vprg = some false := by
  obtain ⟨-, -, rfl⟩ | ⟨-, -, rfl⟩ | ⟨-, rfl⟩ | ⟨-, rfl⟩ | ⟨-, rfl⟩ | ⟨-, rfl⟩ | ⟨-, rfl⟩ :=
    execInit_cases h <;> simp [LineBank.set]

/-- R197: APPLY_FRAME writes no configuration, no binding and no VPRG. -/
theorem execApplyFrame_keeps {bs : List Byte} {s t : State} (h : execApplyFrame bs s = .next t) :
    t.serialCfg = s.serialCfg ∧ t.bound = s.bound ∧ t.line.vprg = s.line.vprg := by
  obtain ⟨-, -, rfl⟩ | ⟨-, -, rfl⟩ | ⟨-, -, rfl⟩ | ⟨-, -, rfl⟩ | ⟨-, rfl⟩ | ⟨-, rfl⟩ | ⟨-, rfl⟩ |
    ⟨-, rfl⟩ | ⟨-, rfl⟩ | ⟨-, rfl⟩ := execApplyFrame_cases h <;> simp [LineBank.set]

/-- Settles O44: the Bit Packer only answers, and the two controller commands have the lemmas above. -/
theorem onlyControllerDrivesThePort : Obligations.OnlyControllerDrivesThePort := by
  intro i s t h
  obtain ⟨r, -, rfl⟩ | ⟨rfl, hi⟩ | ⟨bs, rfl, ha⟩ := exec_cases h
  · simp
  · exact ⟨fun _ => .inl rfl, fun _ => rfl, fun _ => rfl,
      fun hne => ⟨rfl, (execInit_vprg hi).resolve_left hne⟩⟩
  · obtain ⟨hcfg, hb, hv⟩ := execApplyFrame_keeps ha
    exact ⟨fun _ => .inr ⟨bs, rfl⟩, (absurd hcfg ·), (absurd hb ·), (absurd hv ·)⟩

/-- R34: no command writes the parameters. -/
theorem exec_params {i : Instr} {s t : State} (h : exec i s = .next t) : t.params = s.params := by
  obtain ⟨r, -, rfl⟩ | ⟨-, hi⟩ | ⟨bs, -, ha⟩ := exec_cases h
  · simp
  · obtain ⟨-, -, rfl⟩ | ⟨-, -, rfl⟩ | ⟨-, rfl⟩ | ⟨-, rfl⟩ | ⟨-, rfl⟩ | ⟨-, rfl⟩ | ⟨-, rfl⟩ :=
      execInit_cases hi <;> simp
  · obtain ⟨-, -, rfl⟩ | ⟨-, -, rfl⟩ | ⟨-, -, rfl⟩ | ⟨-, -, rfl⟩ | ⟨-, rfl⟩ | ⟨-, rfl⟩ | ⟨-, rfl⟩ |
      ⟨-, rfl⟩ | ⟨-, rfl⟩ | ⟨-, rfl⟩ := execApplyFrame_cases ha <;> simp

/-- R36: a command leaves `bound`, or is an INIT at its last micro-step, which binds. -/
theorem exec_bound {i : Instr} {s t : State} (h : exec i s = .next t) :
    t.bound = s.bound ∨ (i = .init ∧ s.initStage = .configured ∧ t.bound = true) := by
  obtain ⟨r, -, rfl⟩ | ⟨rfl, hi⟩ | ⟨bs, -, ha⟩ := exec_cases h
  · simp
  · obtain ⟨-, -, rfl⟩ | ⟨-, -, rfl⟩ | ⟨-, rfl⟩ | ⟨-, rfl⟩ | ⟨-, rfl⟩ | ⟨-, rfl⟩ | ⟨hst, rfl⟩ :=
      execInit_cases hi
    iterate 6 exact .inl rfl
    · exact .inr ⟨rfl, hst, rfl⟩
  · obtain ⟨-, hb, -⟩ := execApplyFrame_keeps ha
    exact .inl hb

/-! ### The invariant without the command slot

Accepting a command fills the slot before the command has moved, so `State.Inv` does not hold of the state in
which `exec` runs. `State.Coherent` is the part of it that does not speak of the slot; `State.Running` is what
`exec` is run under. -/

/-- The clause of `State.Inv` on the chips, for a given observer. -/
structure State.ChipsAgree (s : State) (o : Observer) : Prop where
  sized : o.sized s.params.nChips
  flight : o.flight.isSome = true ↔ s.phase = .transmitting
  written : ∀ p ∈ s.initStage.written, o.lvl.get p.1 = p.2
  driven : s.bound = true → s.line = LineBank.driven o.lvl ∧ s.phase.levels o.lvl

/-- The clauses of `State.Inv` that do not speak of the command slot. -/
structure State.Coherent (s : State) : Prop where
  unbound : s.bound = false → s.line = s.initStage.lines ∧
    s.serialCfg = (if s.initStage = .configured then some SerialCfg.standard else none) ∧
    s.phase = .idle
  configured : s.bound = true → s.serialCfg = some SerialCfg.standard
  notPending : s.phase ≠ .transmitting → s.pending = []
  observed : ∃ o, s.obs = some o ∧ s.ChipsAgree o

theorem State.Inv.coherent {s : State} (h : s.Inv) : s.Coherent where
  unbound := h.unbound
  configured := h.configured
  notPending := h.notPending
  observed :=
    let ⟨o, ho, hsize, hfl, hwr, hdr⟩ := h.observed
    ⟨o, ho, hsize, hfl, hwr, hdr⟩

namespace State.Coherent

/-- Once the block is bound, coherence is about the configuration, the pending bytes and the chips. -/
theorem of_bound {s : State} {o : Observer} (hb : s.bound = true)
    (hcfg : s.serialCfg = some SerialCfg.standard) (hpend : s.phase ≠ .transmitting → s.pending = [])
    (ho : s.obs = some o) (ha : s.ChipsAgree o) : s.Coherent :=
  ⟨fun hn => Bool.noConfusion (hb.symm.trans hn), fun _ => hcfg, hpend, o, ho, ha⟩

/-- A coherent state is in the invariant where its slot is as R43 and R189 have it. -/
theorem inv {s : State} (h : s.Coherent)
    (free : s.cmd = none → s.phase = .idle ∧ s.initStage = .start)
    (busy : ∀ i, s.cmd = some i →
      (i = .init ∧ s.phase = .idle ∧ s.initStage ≠ .start ∧ s.params.configValid = true) ∨
      ∃ bs, i = .applyFrame bs ∧ s.phase ≠ .idle ∧ s.initStage = .start ∧
        (s.phase = .transmitting → s.pending = bs)) : s.Inv where
  unbound := h.unbound
  configured := h.configured
  free := free
  busy := busy
  notPending := h.notPending
  observed :=
    let ⟨o, ho, ha⟩ := h.observed
    ⟨o, ho, ha.sized, ha.flight, ha.written, ha.driven⟩

/-- R43: with the slot free. -/
theorem inv_of_free {s : State} (h : s.Coherent) (hc : s.cmd = none) (hp : s.phase = .idle)
    (hst : s.initStage = .start) : s.Inv :=
  h.inv (fun _ => ⟨hp, hst⟩) fun i hi => by rw [hc] at hi; cases hi

/-- R190: with an INIT in progress. -/
theorem inv_of_init {s : State} (h : s.Coherent) (hc : s.cmd = some .init) (hp : s.phase = .idle)
    (hst : s.initStage ≠ .start) (hv : s.params.configValid = true) : s.Inv :=
  h.inv (fun hn => by rw [hc] at hn; cases hn) fun i hi => by
    rw [hc] at hi; cases hi; exact .inl ⟨rfl, hp, hst, hv⟩

/-- R188: with an APPLY_FRAME in progress. -/
theorem inv_of_applyFrame {s : State} {bs : List Byte} (h : s.Coherent)
    (hc : s.cmd = some (.applyFrame bs)) (hp : s.phase ≠ .idle) (hst : s.initStage = .start)
    (hpend : s.phase = .transmitting → s.pending = bs) : s.Inv :=
  h.inv (fun hn => by rw [hc] at hn; cases hn) fun i hi => by
    rw [hc] at hi; cases hi; exact .inr ⟨bs, rfl, hp, hst, hpend⟩

/-- Coherence does not speak of the slot, the port, the record of responses and the transport's inputs. -/
theorem update {s : State} (h : s.Coherent) {c : Option Instr} {port : List PortItem}
    {rs : List Response} {as : List TransportDraw} {n : Nat} :
    State.Coherent { s with
      cmd := c, port := port, responses := rs, answers := as, transportDraws := n } :=
  let ⟨o, ho, ha⟩ := h.observed
  ⟨h.unbound, h.configured, h.notPending, o, ho, ⟨ha.sized, ha.flight, ha.written, ha.driven⟩⟩

/-- R37: outside Idle the block is bound. -/
theorem bound_of_not_idle {s : State} (h : s.Coherent) (hp : s.phase ≠ .idle) : s.bound = true := by
  cases hb : s.bound with
  | true => rfl
  | false =>
    obtain ⟨-, -, hidle⟩ := h.unbound hb
    exact absurd hidle hp

/-- A command that only answers leaves an idle block in the invariant (R140, R235, R240). -/
theorem inv_conclude {s : State} (h : s.Coherent) (hp : s.phase = .idle)
    (hst : s.initStage = .start) (r : Response) : (s.conclude r).Inv := by
  rw [State.conclude_idle hp]
  exact h.update.inv_of_free rfl hp hst

end State.Coherent

/-! ### Line writes and transmissions as the chips see them -/

theorem LineBank.driven_set (lvl : LineBank Bit) (l : Line) (v : Bit) :
    LineBank.driven (lvl.set l v) = (LineBank.driven lvl).set l (some v) := by
  cases l <;> rfl

/-- R85: no write but XLAT's can be refused. -/
theorem Observer.seeLine_isSome_of_ne_xlat (o : Observer) {l : Line} (v : Bit) (hl : l ≠ .xlat) :
    ∃ o', o.seeLine l v = some o' := by
  unfold Observer.seeLine
  by_cases hv : o.lvl.get l = v
  · exact ⟨_, if_pos hv⟩
  · rw [if_neg hv]
    cases l with
    | xlat => exact absurd rfl hl
    | gsclk => cases v <;> exact ⟨_, rfl⟩
    | blank => exact ⟨_, rfl⟩
    | vprg => exact ⟨_, rfl⟩

/-- R80: a line write keeps the registers' sizes; a latch copies 192 bits a chip to 16 values of 12. -/
theorem Observer.sized_seeLine {o o' : Observer} {n : Nat} {l : Line} {v : Bit} (h : o.sized n)
    (hs : o.seeLine l v = some o') : o'.sized n := by
  obtain ⟨hsr, hgs, hcnt, hfl⟩ := h
  obtain ⟨-, hsr', hfl', -, hcnt', hgs'⟩ := Observer.seeLine_some hs
  refine ⟨hsr' ▸ hsr, ?_, hcnt' ▸ hcnt, hfl' ▸ hfl⟩
  obtain hgs' | hgs' := hgs'
  · exact hgs' ▸ hgs
  · rw [hgs', length_latch, hsr]
    omega

/-- R80, R81: a transmission that begins keeps the registers' sizes. -/
theorem Observer.sized_beginFlight {o : Observer} {n : Nat} (h : o.sized n) (ws : List Bit) :
    (o.beginFlight ws).sized n := by
  obtain ⟨hsr, hgs, hcnt, -⟩ := h
  refine ⟨by simp [Observer.beginFlight, hsr], hgs, hcnt, fun f hf => ?_⟩
  simp only [Observer.beginFlight, Option.some.injEq] at hf
  subst hf
  exact hsr

/-- R185: with no transmission in flight there is none to end. -/
theorem Observer.endFlight_of_none {o : Observer} (h : o.flight = none) : o.endFlight = o := by
  simp only [Observer.endFlight, h]

theorem Observer.endFlight_of_some {o : Observer} {f : Flight} (h : o.flight = some f) :
    o.endFlight = { o with sr := shiftAll f.before f.wire, flight := none } := by
  simp only [Observer.endFlight, h]

/-- R81, R89: an answer keeps the registers' sizes and the levels, and ends the transmission. -/
theorem Observer.see_transportAnswer {o : Observer} {n : Nat} (h : o.sized n) (a : LinkAnswer)
    (cfg : Option SerialCfg) :
    ∃ o', o.see cfg (.transportAnswer a) = some o' ∧ o'.sized n ∧ o'.flight = none ∧
      o'.lvl = o.lvl := by
  obtain ⟨hsr, hgs, hcnt, hfl⟩ := h
  cases a with
  | err =>
    exact ⟨_, rfl, ⟨by simp [Observer.havoc, hsr], by simp [Observer.havoc, hgs], hcnt, nofun⟩,
      rfl, rfl⟩
  | ok =>
    refine ⟨_, rfl, ?_⟩
    cases hf : o.flight with
    | none =>
      rw [Observer.endFlight_of_none hf]
      exact ⟨⟨hsr, hgs, hcnt, hfl⟩, hf, rfl⟩
    | some f =>
      rw [Observer.endFlight_of_some hf]
      exact ⟨⟨by simp [hfl f hf], hgs, hcnt, nofun⟩, rfl, rfl⟩

/-- R197: VPRG is 0 in every phase. -/
theorem Phase.levels_vprg {p : Phase} {lvl : LineBank Bit} (h : p.levels lvl) : lvl.vprg = false := by
  cases p with
  | idle | transmitting =>
    obtain ⟨-, hv, -⟩ := h
    exact hv
  | blanked | latchHigh | latched | unblanked | clockHigh | clocked => rw [h]

/-- A line write that the chips do not refuse: they agree with the state after it where its phase and stage
say so of the new levels. -/
theorem State.ChipsAgree.setLine {s : State} {o : Observer} {l : Line} {v : Bit} {p : Phase}
    {st : InitStage} (h : s.ChipsAgree o) (hs : s.phase ≠ .transmitting) (hp : p ≠ .transmitting)
    (hx : l ≠ .xlat ∨ o.lvl.vprg = false)
    (hwr : ∀ q ∈ st.written, (o.lvl.set l v).get q.1 = q.2)
    (hlv : s.phase.levels o.lvl → p.levels (o.lvl.set l v)) :
    ∃ o', o.seeLine l v = some o' ∧
      State.ChipsAgree { s.setLine l v with phase := p, initStage := st } o' := by
  obtain ⟨o', ho'⟩ : ∃ o', o.seeLine l v = some o' :=
    hx.elim (o.seeLine_isSome_of_ne_xlat v) (o.seeLine_isSome l v)
  obtain ⟨hlvl, -, hfl, -⟩ := Observer.seeLine_some ho'
  refine ⟨o', ho', Observer.sized_seeLine h.sized ho', ?_, by rwa [hlvl], fun hb => ?_⟩
  · rw [hfl, h.flight]
    exact iff_of_false hs hp
  · obtain ⟨hline, hlev⟩ := h.driven hb
    rw [hlvl, LineBank.driven_set, ← hline]
    exact ⟨rfl, hlv hlev⟩

/-! ### INIT keeps coherence (R190) -/

/-- R190, D13: the line write that leads from one stage of INIT to the next. -/
inductive InitStage.Writes : InitStage → Line → Bit → InitStage → Prop where
  | gsclk : Writes .start .gsclk false .gsclkLow
  | blank : Writes .gsclkLow .blank true .blankHigh
  | vprg : Writes .blankHigh .vprg false .vprgLow
  | xlat : Writes .vprgLow .xlat false .xlatLow

namespace InitStage.Writes

variable {st st' : InitStage} {l : Line} {v : Bit}

theorem written (h : Writes st l v st') : st'.written = st.written ++ [(l, v)] := by
  cases h <;> rfl

theorem lines (h : Writes st l v st') : st'.lines = st.lines.set l (some v) := by
  cases h <;> rfl

/-- INIT writes each line once. -/
theorem line_fresh (h : Writes st l v st') : ∀ q ∈ st.written, q.1 ≠ l := by
  cases h <;> decide

/-- D13: VPRG is written before XLAT. -/
theorem vprg_before_xlat (h : Writes st l v st') : l ≠ .xlat ∨ (.vprg, false) ∈ st.written := by
  cases h <;> decide

theorem not_configured (h : Writes st l v st') : st ≠ .configured ∧ st' ≠ .configured := by
  cases h <;> decide

theorem not_start (h : Writes st l v st') : st' ≠ .start := by
  cases h <;> decide

/-- R37: INIT's levels are those of Idle, which leaves BLANK open. -/
theorem idle_levels (h : Writes st l v st') {lvl : LineBank Bit} (hl : Phase.idle.levels lvl) :
    Phase.idle.levels (lvl.set l v) := by
  obtain ⟨hg, hv, hx⟩ := hl
  cases h
  exacts [⟨rfl, hv, hx⟩, ⟨hg, hv, hx⟩, ⟨hg, rfl, hx⟩, ⟨hg, hv, rfl⟩]

end InitStage.Writes

namespace State.Coherent

/-- R190: each of INIT's four line writes keeps coherence. -/
theorem initWrite {s : State} {l : Line} {v : Bit} {st : InitStage} (h : s.Coherent)
    (hp : s.phase = .idle) (hw : s.initStage.Writes l v st) :
    State.Coherent { s.setLine l v with initStage := st } := by
  obtain ⟨o, ho, ha⟩ := h.observed
  have hwr : ∀ q ∈ st.written, (o.lvl.set l v).get q.1 = q.2 := by
    intro q hq
    rw [hw.written, List.mem_append, List.mem_singleton] at hq
    obtain hq | rfl := hq
    · rw [LineBank.get_set_other _ _ _ _ (hw.line_fresh q hq), ha.written q hq]
    · exact LineBank.get_set_same _ _ _
  have hidle : s.phase ≠ .transmitting := by rw [hp]; decide
  obtain ⟨o', ho', ha'⟩ := ha.setLine (p := s.phase) hidle hidle
    (hw.vprg_before_xlat.imp_right (ha.written (.vprg, false))) hwr
    (by rw [hp]; exact hw.idle_levels)
  refine ⟨fun hb => ?_, h.configured, h.notPending, o', by simp [ho, ho'], ha'⟩
  obtain ⟨hline, hcfg, -⟩ := h.unbound hb
  obtain ⟨hst, hst'⟩ := hw.not_configured
  rw [if_neg hst] at hcfg
  exact ⟨by simp [hline, hw.lines], by simp [hcfg, hst'], hp⟩

/-- R182, R190: so does configuring the transport. -/
theorem initConfigure {s : State} (h : s.Coherent) (hst : s.initStage = .xlatLow) :
    State.Coherent { s.configureSerial SerialCfg.standard with initStage := .configured } := by
  obtain ⟨o, ho, ha⟩ := h.observed
  have hwr : InitStage.configured.written = s.initStage.written := by rw [hst]; rfl
  refine ⟨fun hb => ?_, fun _ => rfl, h.notPending, o, by simp [ho],
    ⟨ha.sized, ha.flight, by rw [hwr]; exact ha.written, ha.driven⟩⟩
  obtain ⟨hline, -, hp⟩ := h.unbound hb
  exact ⟨by rw [State.configureSerial_line, hline, hst]; rfl, rfl, hp⟩

/-- R191: and so does the binding: the levels written are those the chips see, and those of Idle. -/
theorem initBind {s : State} (h : s.Coherent) (hp : s.phase = .idle)
    (hst : s.initStage = .configured) :
    State.Coherent { s with bound := true, initStage := .start } := by
  obtain ⟨o, ho, ha⟩ := h.observed
  have hwr := ha.written
  rw [hst] at hwr
  have hg : o.lvl.gsclk = false := hwr (.gsclk, false) (by decide)
  have hb : o.lvl.blank = true := hwr (.blank, true) (by decide)
  have hv : o.lvl.vprg = false := hwr (.vprg, false) (by decide)
  have hx : o.lvl.xlat = false := hwr (.xlat, false) (by decide)
  have hdr : s.line = LineBank.driven o.lvl ∧ s.serialCfg = some SerialCfg.standard := by
    cases hbd : s.bound with
    | true => exact ⟨(ha.driven hbd).1, h.configured hbd⟩
    | false =>
      obtain ⟨hline, hcfg, -⟩ := h.unbound hbd
      exact ⟨by rw [hline, hst, LineBank.driven, hg, hb, hv, hx]; rfl, by rw [hcfg, if_pos hst]⟩
  have hlev : s.phase.levels o.lvl := by
    rw [hp]
    exact ⟨hg, hv, hx⟩
  exact .of_bound rfl hdr.2 h.notPending ho ⟨ha.sized, ha.flight, nofun, fun _ => ⟨hdr.1, hlev⟩⟩

end State.Coherent

/-! ### APPLY_FRAME keeps coherence (R188) -/

namespace State.Coherent

/-- R188, R198: a line write of APPLY_FRAME keeps coherence where it takes the levels of its phase to those
of the next. -/
theorem pulse {s : State} {l : Line} {v : Bit} {p : Phase} (h : s.Coherent) (hb : s.bound = true)
    (hst : s.initStage = .start) (hs : s.phase ≠ .transmitting) (hp : p ≠ .transmitting)
    (hlv : ∀ lvl, s.phase.levels lvl → p.levels (lvl.set l v)) :
    State.Coherent { s.setLine l v with phase := p } := by
  obtain ⟨o, ho, ha⟩ := h.observed
  obtain ⟨o', ho', ha'⟩ := ha.setLine (st := s.initStage) hs hp
    (.inr (Phase.levels_vprg (ha.driven hb).2)) (by rw [hst]; nofun) (hlv o.lvl)
  exact .of_bound hb (h.configured hb) (fun _ => h.notPending hs) (by simp [ho, ho']) ha'

/-- R186, R188: a transmission begun by a bound, idle block keeps coherence. -/
theorem beginTransmit {s : State} (h : s.Coherent) (hb : s.bound = true) (hp : s.phase = .idle)
    (bs : List Byte) : (s.beginTransmit bs).Coherent := by
  obtain ⟨o, ho, ha⟩ := h.observed
  obtain ⟨hline, hlev⟩ := ha.driven hb
  rw [hp] at hlev
  have hcfg := h.configured hb
  exact .of_bound (o := o.beginFlight (SerialCfg.standard.wireBits bs)) hb hcfg
    (fun hn => absurd rfl hn) (by simp [ho, hcfg, Observer.see])
    ⟨Observer.sized_beginFlight ha.sized _, iff_of_true rfl rfl, ha.written, fun _ => ⟨hline, hlev⟩⟩

/-- R185: an answer used up is no part of coherence. -/
theorem takeDraw {s : State} (h : s.Coherent) : s.takeDraw.Coherent := by
  unfold State.takeDraw
  split <;> exact h.update

/-- R186, R188: after the transport's answer the block is coherent as an idle one, the levels of
Transmitting being those of Idle. -/
theorem endTransmit {s : State} (h : s.Coherent) (hp : s.phase = .transmitting) (a : LinkAnswer) :
    State.Coherent { s.endTransmit a with phase := .idle } := by
  obtain ⟨o, ho, ha⟩ := h.observed
  have hb : s.bound = true := h.bound_of_not_idle (by rw [hp]; decide)
  obtain ⟨hline, hlev⟩ := ha.driven hb
  rw [hp] at hlev
  obtain ⟨o', ho', hsize, hfl, hlvl⟩ := Observer.see_transportAnswer ha.sized a s.serialCfg
  exact .of_bound hb (h.configured hb) (fun _ => rfl) (by simp [ho, ho'])
    ⟨hsize, by simp [hfl], by rw [hlvl]; exact ha.written,
      fun _ => by rw [hlvl]; exact ⟨hline, hlev⟩⟩

/-- R188: the last row returns to Idle with the levels of Clocked. -/
theorem returnIdle {s : State} (h : s.Coherent) (hp : s.phase = .clocked) :
    State.Coherent { s with phase := .idle } := by
  obtain ⟨o, ho, ha⟩ := h.observed
  have hs : s.phase ≠ .transmitting := by rw [hp]; decide
  have hb : s.bound = true := h.bound_of_not_idle (by rw [hp]; decide)
  obtain ⟨hline, hlev⟩ := ha.driven hb
  have hidle : Phase.idle.levels o.lvl := by
    rw [hp] at hlev
    rw [hlev]
    exact ⟨rfl, rfl, rfl⟩
  exact .of_bound hb (h.configured hb) (fun _ => h.notPending hs) ho
    ⟨ha.sized, by rw [ha.flight]; exact iff_of_false hs nofun, ha.written,
      fun _ => ⟨hline, hidle⟩⟩

end State.Coherent

/-! ### Every micro-step leads to the invariant -/

/-- What holds of the state in which a step runs command `i`. -/
structure State.Running (i : Instr) (s : State) : Prop where
  coherent : s.Coherent
  slot : s.cmd = some i
  packer : ∀ r, packerResponse s.params i = some r → s.phase = .idle ∧ s.initStage = .start
  init : i = .init →
    s.phase = .idle ∧ (s.initStage ≠ .start → s.params.configValid = true)
  applyFrame : ∀ bs, i = .applyFrame bs → s.initStage = .start

/-- R43, R189: under the invariant the command fetched is run in such a state. -/
theorem State.Inv.running {s s' : State} {i : Instr} (h : s.Inv) (hf : s.fetch = .run i s') :
    s'.Running i := by
  obtain ⟨hc, rfl⟩ | ⟨hc, item, rest, -, rfl, -⟩ := State.fetch_run hf
  · obtain ⟨rfl, hp, -, hv⟩ | ⟨bs, rfl, -, hst, -⟩ := h.busy i hc
    · exact ⟨h.coherent, hc, nofun, fun _ => ⟨hp, fun _ => hv⟩, nofun⟩
    · exact ⟨h.coherent, hc, nofun, nofun, fun _ _ => hst⟩
  · obtain ⟨hp, hst⟩ := h.free hc
    exact ⟨h.coherent.update, rfl, fun _ _ => ⟨hp, hst⟩,
      fun _ => ⟨hp, (absurd hst ·)⟩, fun _ _ => hst⟩

/-- R190: a micro-step of INIT leads to the invariant. -/
theorem State.Running.inv_execInit {s t : State} (h : s.Running .init) (ht : execInit s = .next t) :
    t.Inv := by
  obtain ⟨hp, hv⟩ := h.init rfl
  have write {l : Line} {v : Bit} {st : InitStage} (hw : s.initStage.Writes l v st)
      (hv : s.params.configValid = true) : State.Inv { s.setLine l v with initStage := st } :=
    (h.coherent.initWrite hp hw).inv_of_init h.slot hp hw.not_start hv
  obtain ⟨hst, hc, rfl⟩ | ⟨hst, -, rfl⟩ | ⟨hst, rfl⟩ | ⟨hst, rfl⟩ | ⟨hst, rfl⟩ | ⟨hst, rfl⟩ |
    ⟨hst, rfl⟩ := execInit_cases ht
  · exact write (hst ▸ .gsclk) hc
  · exact h.coherent.inv_conclude hp hst (.err .configurationError 0)
  · exact write (hst ▸ .blank) (hv (by simp [hst]))
  · exact write (hst ▸ .vprg) (hv (by simp [hst]))
  · exact write (hst ▸ .xlat) (hv (by simp [hst]))
  · exact (h.coherent.initConfigure hst).inv_of_init h.slot hp nofun (hv (by simp [hst]))
  · exact (h.coherent.initBind hp hst).inv_conclude hp rfl (.ok .noData)

/-- R188: a row of APPLY_FRAME leads to the invariant. -/
theorem State.Running.inv_execApplyFrame {bs : List Byte} {s t : State}
    (h : s.Running (.applyFrame bs)) (ht : execApplyFrame bs s = .next t) : t.Inv := by
  have hst := h.applyFrame bs rfl
  have pulse {l : Line} {v : Bit} {p : Phase} (hs : s.phase ≠ .idle ∧ s.phase ≠ .transmitting)
      (hp : p ≠ .idle ∧ p ≠ .transmitting)
      (hlv : ∀ lvl, s.phase.levels lvl → p.levels (lvl.set l v)) :
      State.Inv { s.setLine l v with phase := p } :=
    (h.coherent.pulse (h.coherent.bound_of_not_idle hs.1) hst hs.2 hp.2 hlv).inv_of_applyFrame h.slot
      hp.1 hst (absurd · hp.2)
  obtain ⟨hp, hb, rfl⟩ | ⟨hp, -, rfl⟩ | ⟨hp, -, rfl⟩ | ⟨hp, -, rfl⟩ | ⟨hp, rfl⟩ | ⟨hp, rfl⟩ |
    ⟨hp, rfl⟩ | ⟨hp, rfl⟩ | ⟨hp, rfl⟩ | ⟨hp, rfl⟩ := execApplyFrame_cases ht
  · exact (h.coherent.beginTransmit hb hp bs).inv_of_applyFrame h.slot nofun hst fun _ => rfl
  · exact h.coherent.inv_conclude hp hst (.err .notInitialized 0)
  · have hidle := h.coherent.takeDraw.endTransmit (by simpa using hp) .ok
    have hblank := hidle.pulse (l := .blank) (v := true) (p := .blanked)
      (by simpa using h.coherent.bound_of_not_idle (by simp [hp])) (by simpa using hst) nofun nofun
      (fun lvl ⟨hg, hv, hx⟩ => by simp [Phase.levels, LineBank.set, hg, hv, hx])
    exact hblank.inv_of_applyFrame (by simpa using h.slot) nofun (by simpa using hst) nofun
  · have hidle := h.coherent.takeDraw.endTransmit (by simpa using hp) .err
    exact hidle.inv_conclude rfl (by simpa using hst) (.err .transportError 0)
  iterate 5 exact pulse (by simp [hp]) (by decide) (by rw [hp]; rintro _ rfl; rfl)
  · exact (h.coherent.returnIdle hp).inv_conclude rfl hst (.ok .noData)

/-- Whatever the command run, its micro-step leads to the invariant. -/
theorem State.Running.inv_exec {i : Instr} {s t : State} (h : s.Running i) (ht : exec i s = .next t) :
    t.Inv := by
  obtain ⟨r, hr, rfl⟩ | ⟨rfl, hi⟩ | ⟨bs, rfl, ha⟩ := exec_cases ht
  · obtain ⟨hp, hst⟩ := h.packer r hr
    exact h.coherent.inv_conclude hp hst r
  · exact h.inv_execInit hi
  · exact h.inv_execApplyFrame ha

/-- Settles O39: the command fetched runs in a coherent state, and its micro-step leads to the invariant. -/
theorem stepKeepsInv : Obligations.StepKeepsInv := by
  intro s t hI h
  obtain ⟨i, s', hf, he⟩ | ⟨-, -, rfl⟩ | ⟨hc, f, rest, e, -, -, rfl⟩ := step_cases h
  · exact (hI.running hf).inv_exec he
  · exact hI
  · obtain ⟨hp, hst⟩ := hI.free hc
    exact (hI.coherent.update (port := rest)).inv_conclude hp hst
      (.err .illegalCommand e.detail)

/-- Settles O45: only INIT's last micro-step writes `bound`, and one in progress has a valid configuration. -/
theorem bindingIsForGood : Obligations.BindingIsForGood := by
  intro s t h
  obtain ⟨i, s', hf, he⟩ | ⟨-, -, rfl⟩ | ⟨-, f, rest, e, -, -, rfl⟩ := step_cases h
  · obtain ⟨-, -, -, hb, -, -, -, -, -, hpar, -⟩ := State.fetch_run_keeps hf
    rw [← hb, ← hpar]
    refine ⟨fun hs => ?_, fun hI hv => ?_, exec_params he⟩
    · obtain ht | ⟨-, -, ht⟩ := exec_bound he
      · rw [ht, hs]
      · exact ht
    · obtain ht | ⟨hi, hst, -⟩ := exec_bound he
      · exact ht
      · have hvalid := ((hI.running hf).init hi).2 (by simp [hst])
        rw [hv] at hvalid
        cases hvalid
  · exact ⟨id, fun _ _ => rfl, rfl⟩
  · exact ⟨id, fun _ _ => rfl, rfl⟩

/-! ### Power-on (R45) -/

/-- Settles O37: each field of the reset state is the one R45 gives. -/
theorem powerOnState : Obligations.PowerOnState := ⟨rfl, rfl, rfl, rfl, rfl, rfl, rfl⟩

/-- R80: the chips at power-on have their sizes and no transmission in flight. -/
theorem Observer.sized_powerOn (n : Nat) : (Observer.powerOn n).sized n :=
  ⟨by simp [Observer.powerOn], by simp [Observer.powerOn], by simp [Observer.powerOn], nofun⟩

theorem State.coherent_powerOn (p : Params) : (State.powerOn p).Coherent :=
  ⟨fun _ => ⟨rfl, rfl, rfl⟩, nofun, fun _ => rfl, _, rfl,
    ⟨Observer.sized_powerOn p.nChips, iff_of_false nofun nofun, nofun, nofun⟩⟩

/-- Settles O38: nothing is driven, in progress or on the trace. -/
theorem invHoldsAtPowerOn : Obligations.InvHoldsAtPowerOn := fun p =>
  ⟨(State.coherent_powerOn p).inv_of_free rfl rfl rfl, [], [], fun h => absurd rfl h, rfl⟩

end Sys2Proof.Machine

/-! The family of the memory: the order of the trace (R73, R74), the bit stream (R62 to R67), the chips' shift and
latch registers (R81 to R89), and a Frame's way from the host to the outputs (R200). -/

namespace Sys2Proof.Machine

/-! ### The order of events (R73, R74, R188, R190) -/

/-- R190: a line write of INIT is the next of its events. -/
theorem InitStage.Writes.emits {st st' : InitStage} {l : Line} {v : Bit} (h : Writes st l v st') :
    initEvents.take st'.emitted = initEvents.take st.emitted ++ [.setLine l v] := by
  cases h <;> rfl

/-- R74: with no APPLY_FRAME in progress the trace is ended commands and the first events of an INIT. -/
theorem State.Ordered.of_idle {s : State} {done : List Transaction} (hp : s.phase = .idle)
    (htr : s.trace = done.flatMap Transaction.events ++ initEvents.take s.initStage.emitted) :
    s.Ordered :=
  ⟨done, [], (absurd hp ·), by simp [htr, hp, Phase.emitted]⟩

/-- R74: with an APPLY_FRAME in progress it is ended commands and the first events of that one. -/
theorem State.Ordered.of_applyFrame {s : State} {done : List Transaction} {bs : List Byte}
    (hc : s.cmd = some (.applyFrame bs)) (hst : s.initStage = .start)
    (htr : s.trace = done.flatMap Transaction.events ++ (applyFrameEvents bs).take s.phase.emitted) :
    s.Ordered :=
  ⟨done, bs, fun _ => hc, by simp [htr, hst, InitStage.emitted]⟩

theorem State.Ordered.trace_of_idle {s : State} (h : s.Ordered) (hp : s.phase = .idle) :
    ∃ done : List Transaction,
      s.trace = done.flatMap Transaction.events ++ initEvents.take s.initStage.emitted := by
  obtain ⟨done, bs, -, htr⟩ := h
  exact ⟨done, by simp [htr, hp, Phase.emitted]⟩

theorem State.Ordered.trace_of_applyFrame {s : State} {bs : List Byte} (h : s.Ordered)
    (hc : s.cmd = some (.applyFrame bs)) (hst : s.initStage = .start) :
    ∃ done : List Transaction,
      s.trace = done.flatMap Transaction.events ++ (applyFrameEvents bs).take s.phase.emitted := by
  obtain ⟨done, bs', hbs, htr⟩ := h
  refine ⟨done, ?_⟩
  by_cases hp : s.phase = .idle
  · simp [htr, hst, hp, Phase.emitted, InitStage.emitted]
  · obtain rfl : bs = bs' := by simpa [hc] using hbs hp
    simp [htr, hst, InitStage.emitted]

/-- A command that only answers ends an idle block's command without an event. -/
theorem State.Ordered.conclude {s : State} (h : s.Ordered) (hp : s.phase = .idle) (r : Response) :
    (s.conclude r).Ordered := by
  obtain ⟨done, htr⟩ := h.trace_of_idle hp
  rw [State.conclude_idle hp]
  exact .of_idle hp htr

/-- R190: a micro-step of INIT adds its next event, or ends the INIT with all five on the trace. -/
theorem State.Running.ordered_execInit {s t : State} (h : s.Running .init) (ho : s.Ordered)
    (ht : execInit s = .next t) : t.Ordered := by
  obtain ⟨hp, -⟩ := h.init rfl
  obtain ⟨done, htr⟩ := ho.trace_of_idle hp
  have write {l : Line} {v : Bit} {st : InitStage} (hw : s.initStage.Writes l v st) :
      State.Ordered { s.setLine l v with initStage := st } :=
    .of_idle (done := done) hp (by simp [htr, hw.emits])
  obtain ⟨hst, -, rfl⟩ | ⟨-, -, rfl⟩ | ⟨hst, rfl⟩ | ⟨hst, rfl⟩ | ⟨hst, rfl⟩ | ⟨hst, rfl⟩ |
    ⟨hst, rfl⟩ := execInit_cases ht
  · exact write (hst ▸ .gsclk)
  · exact ho.conclude hp (.err .configurationError 0)
  · exact write (hst ▸ .blank)
  · exact write (hst ▸ .vprg)
  · exact write (hst ▸ .xlat)
  · exact .of_idle (done := done) hp (by simp [htr, hst, InitStage.emitted, initEvents])
  · exact .of_idle (done := done ++ [.init]) hp
      (by simp [htr, hst, InitStage.emitted, Transaction.events, initEvents])

/-- R188, R194, R199: a row of APPLY_FRAME adds its events, or ends the command with its whole events on the
trace. -/
theorem State.Running.ordered_execApplyFrame {bs : List Byte} {s t : State}
    (h : s.Running (.applyFrame bs)) (ho : s.Ordered) (ht : execApplyFrame bs s = .next t) :
    t.Ordered := by
  have hst := h.applyFrame bs rfl
  obtain ⟨done, htr⟩ := ho.trace_of_applyFrame h.slot hst
  have pulse {l : Line} {v : Bit} {p : Phase}
      (he : (applyFrameEvents bs).take p.emitted =
        (applyFrameEvents bs).take s.phase.emitted ++ [.setLine l v]) :
      State.Ordered { s.setLine l v with phase := p } :=
    .of_applyFrame (done := done) h.slot hst (by simp [htr, he])
  obtain ⟨hp, -, rfl⟩ | ⟨hp, -, rfl⟩ | ⟨hp, -, rfl⟩ | ⟨hp, -, rfl⟩ | ⟨hp, rfl⟩ | ⟨hp, rfl⟩ |
    ⟨hp, rfl⟩ | ⟨hp, rfl⟩ | ⟨hp, rfl⟩ | ⟨hp, rfl⟩ := execApplyFrame_cases ht
  · exact .of_applyFrame (done := done) (bs := bs) h.slot hst
      (by simp [htr, hp, Phase.emitted, applyFrameEvents])
  · exact ho.conclude hp (.err .notInitialized 0)
  · exact .of_applyFrame (done := done) (bs := bs) (by simp [h.slot]) (by simp [hst])
      (by simp [htr, hp, Phase.emitted, applyFrameEvents])
  · exact .of_idle (done := done ++ [.failed bs]) rfl
      (by simp [htr, hp, hst, Phase.emitted, InitStage.emitted, Transaction.events, applyFrameEvents])
  iterate 5 exact pulse (by rw [hp]; rfl)
  · exact .of_idle (done := done ++ [.applied bs]) rfl
      (by simp [htr, hp, hst, Phase.emitted, InitStage.emitted, Transaction.events, applyFrameEvents])

/-- Accepting a command leaves the order: with the slot empty no APPLY_FRAME is in progress. -/
theorem State.Ordered.fetch {s s' : State} {i : Instr} (h : s.Ordered) (hI : s.Inv)
    (hf : s.fetch = .run i s') : s'.Ordered := by
  obtain ⟨-, rfl⟩ | ⟨hc, item, rest, -, rfl, -⟩ := State.fetch_run hf
  · exact h
  · obtain ⟨hp, -⟩ := hI.free hc
    obtain ⟨done, htr⟩ := h.trace_of_idle hp
    exact .of_idle hp htr

/-- Settles O41: the command fetched runs in an ordered state, and its micro-step keeps the order. -/
theorem stepKeepsOrder : Obligations.StepKeepsOrder := by
  intro s t hI ho h
  obtain ⟨i, s', hf, he⟩ | ⟨-, -, rfl⟩ | ⟨hc, f, rest, e, -, -, rfl⟩ := step_cases h
  · have hR := hI.running hf
    have ho' := ho.fetch hI hf
    obtain ⟨r, hr, rfl⟩ | ⟨rfl, hi⟩ | ⟨bs, rfl, ha⟩ := exec_cases he
    · obtain ⟨hp, -⟩ := hR.packer r hr
      exact ho'.conclude hp r
    · exact hR.ordered_execInit ho' hi
    · exact hR.ordered_execApplyFrame ho' ha
  · exact ho
  · obtain ⟨hp, -⟩ := hI.free hc
    obtain ⟨done, htr⟩ := ho.trace_of_idle hp
    exact .of_idle (done := done) rfl htr

end Sys2Proof.Machine

/-! ### Numbers, slices and bytes of a bit sequence (R11, R62) -/

namespace Sys2Proof

theorem val_append (as bs : List Bit) : val (as ++ bs) = val as * 2 ^ bs.length + val bs := by
  have h : val (as ++ bs) = bs.foldl (fun acc b => 2 * acc + b.toNat) (val as) :=
    List.foldl_append ..
  rw [h, val_foldl]

/-- R11: the number of a slice, from the number of the whole sequence. -/
theorem val_slice {bs : List Bit} {i j : Nat} (hij : i ≤ j) (hj : j ≤ bs.length) :
    val (slice bs i j) = val bs / 2 ^ (bs.length - j) % 2 ^ (j - i) := by
  have hsplit : bs.take i ++ slice bs i j ++ bs.drop j = bs := by
    have htake : bs.take i ++ slice bs i j = bs.take j := by
      rw [slice, ← List.take_add, Nat.add_sub_cancel' hij]
    rw [htake, List.take_append_drop]
  have hslice : (slice bs i j).length = j - i := by rw [length_slice]; omega
  have htail : val (bs.drop j) < 2 ^ (bs.length - j) := by simpa using val_lt (bs.drop j)
  have hval := congrArg val hsplit
  rw [val_append, val_append, hslice, List.length_drop] at hval
  rw [← hval, mul_comm, Nat.mul_add_div (by positivity), Nat.div_eq_of_lt htail, Nat.add_zero,
    Nat.mul_add_mod_self_right, Nat.mod_eq_of_lt (hslice ▸ val_lt (slice bs i j))]

/-- Element `i` is the bit of the sequence's number at the matching place. -/
theorem getElem?_eq_testBit_val {bs : List Bit} {i : Nat} (h : i < bs.length) :
    bs[i]? = some ((val bs).testBit (bs.length - 1 - i)) := by
  rw [testBit_val bs i h, List.getElem?_eq_getElem h]

theorem slice_append_slice {α : Type} (s : List α) {i j k : Nat} (hij : i ≤ j) (hjk : j ≤ k) :
    slice s i j ++ slice s j k = slice s i k := by
  have hdrop : s.drop j = (s.drop i).drop (j - i) := by
    rw [List.drop_drop, Nat.add_sub_cancel' hij]
  rw [slice, slice, slice, hdrop, ← List.take_add]
  congr 1
  omega

theorem slice_slice {α : Type} (s : List α) {i j k l : Nat} (h : i + l ≤ j) :
    slice (slice s i j) k l = slice s (i + k) (i + l) := by
  rw [slice, slice, slice, List.drop_take, List.drop_drop, List.take_take]
  congr 1
  omega

/-- R82, R85: with the first bit least significant the number is the sum of the bits' weights. -/
theorem val_reverse (bs : List Bit) :
    val bs.reverse = ((List.range bs.length).map fun i => (bs.getD i false).toNat * 2 ^ i).sum := by
  induction bs with
  | nil => rfl
  | cons b bs ih =>
    rw [List.reverse_cons, val_append, ih, ← List.sum_map_mul_right, List.length_cons (as := bs),
      List.range_succ_eq_map]
    simp [val_cons, Function.comp_def, pow_succ, mul_assoc, add_comm]

/-- Where every piece has length `k`, the slice of `k` elements at piece `i` is that piece. -/
theorem slice_flatMap_const {α β : Type} {f : α → List β} {k : Nat} (hf : ∀ a, (f a).length = k)
    {l : List α} {i : Nat} {a : α} (h : l[i]? = some a) :
    slice (l.flatMap f) (k * i) (k * i + k) = f a := by
  apply List.ext_getElem?
  intro j
  by_cases hj : j < k
  · rw [getElem?_slice _ _ _ _ (by omega), getElem?_flatMap_const f k hf l i j hj, h,
      Option.bind_some]
  · rw [List.getElem?_eq_none (by rw [length_slice]; omega),
      List.getElem?_eq_none (by rw [hf]; omega)]

/-- Eight consecutive bits read as a number below 256. -/
theorem toNat_ofNat_val_slice (b : List Bit) (i : Nat) :
    (BitVec.ofNat 8 (val (slice b i (i + 8)))).toNat = val (slice b i (i + 8)) := by
  have hlt := val_lt (slice b i (i + 8))
  have hle : 2 ^ (slice b i (i + 8)).length ≤ 2 ^ 8 :=
    Nat.pow_le_pow_right (by decide) (by rw [length_slice]; omega)
  exact Nat.mod_eq_of_lt (hlt.trans_le hle)

/-- R62: bit `k` of a whole group of eight is bit `7 - k` of the group's byte. -/
theorem getElem?_eq_getLsbD_group {b : List Bit} {j k : Nat} (hj : 8 * j + 8 ≤ b.length) (hk : k < 8) :
    b[8 * j + k]? = some ((BitVec.ofNat 8 (val (slice b (8 * j) (8 * j + 8)))).getLsbD (7 - k)) := by
  have hlen : (slice b (8 * j) (8 * j + 8)).length = 8 := by rw [length_slice]; omega
  have hbit := getElem?_eq_testBit_val (bs := slice b (8 * j) (8 * j + 8)) (i := k) (by omega)
  rw [getElem?_slice _ _ _ _ (by omega), hlen] at hbit
  rw [hbit, BitVec.getLsbD, toNat_ofNat_val_slice]

/-- Settles O16: byte `j` is the number of its group, whose bits are the byte's. -/
theorem firstBitIsBitSeven : Obligations.FirstBitIsBitSeven := by
  intro b j k hj hk
  exact ⟨_, getElem?_pack b j (by omega), toNat_ofNat_val_slice b _, getElem?_eq_getLsbD_group hj hk⟩

/-- R145: a whole number of bytes' bits is unpacked as it was packed. -/
theorem unpack_pack_of_whole {b : List Bit} (h : b.length % 8 = 0) : unpack (pack b) = b := by
  apply List.ext_getElem?
  intro i
  obtain hi | hi := Nat.lt_or_ge i b.length
  · rw [← Nat.div_add_mod i 8, getElem?_unpack _ _ _ (Nat.mod_lt _ (by decide)),
      getElem?_pack b _ (by omega), Option.map_some,
      getElem?_eq_getLsbD_group (by omega) (Nat.mod_lt _ (by decide))]
  · rw [List.getElem?_eq_none hi, List.getElem?_eq_none (by simp; omega)]

end Sys2Proof

namespace Sys2Proof.Machine

/-! ### The bit stream of a Frame (R63 to R66) -/

/-- R64: the channel with index `i` is the one at `L - 1 - i` in the stream's order. -/
theorem getElem?_reverse_channel {α : Type} {f : List α} {i : Nat} {a : α} (h : f[i]? = some a) :
    f.reverse[f.length - 1 - i]? = some a := by
  obtain ⟨hi, -⟩ := List.getElem?_eq_some_iff.1 h
  rw [List.getElem?_reverse' (j := i) (by omega), h]

/-- Settles O60: each channel is one piece of the sequence, and the pieces stand last channel first. -/
theorem channelsEnterLastFirst : Obligations.ChannelsEnterLastFirst :=
  ⟨fun _ _ _ h _ => slice_flatMap_const (length_bitsOf 12) (getElem?_reverse_channel h),
    fun _ _ _ h => slice_flatMap_const (fun _ => List.length_replicate) (getElem?_reverse_channel h)⟩

/-- R65: bit `k` of the twelve that channel `i` has in the stream. -/
theorem getElem?_stream {f : List Nat} {i k : Nat} (hi : i < f.length) (hk : k < 12) :
    (stream f)[12 * (f.length - 1 - i) + k]? = some ((f.getD i 0).testBit (11 - k)) := by
  rw [stream, getElem?_flatMap_const _ 12 (length_bitsOf 12) _ _ _ hk,
    getElem?_reverse_channel (List.getElem?_eq_getElem hi), Option.bind_some, getElem?_bitsOf hk,
    List.getD_eq_getElem _ _ hi]

/-- Settles O17: both directions are `getElem?_stream`. -/
theorem streamPositionOfEachBit : Obligations.StreamPositionOfEachBit := by
  intro f
  refine ⟨length_stream f, fun t ht => ?_, fun i b hi hb => ?_⟩
  · have h := getElem?_stream (f := f) (i := f.length - 1 - t / 12) (by omega)
      (Nat.mod_lt t (by decide))
    rwa [show 12 * (f.length - 1 - (f.length - 1 - t / 12)) + t % 12 = t by omega] at h
  · rw [getElem?_stream hi (by omega), show 11 - (11 - b) = b by omega]

/-- R66: the 24 bits of two consecutive values, as one number. -/
theorem val_stream_pair {f : List Nat} {m a c : Nat} (hm : 2 * m + 2 ≤ f.length)
    (ha : f[f.length - 1 - 2 * m]? = some a) (hc : f[f.length - 2 - 2 * m]? = some c)
    (ha' : a ≤ 4095) (hc' : c ≤ 4095) :
    val (slice (stream f) (24 * m) (24 * m + 24)) = a * 4096 + c := by
  have hfst : slice (stream f) (12 * (2 * m)) (12 * (2 * m) + 12) = bitsOf 12 a :=
    slice_flatMap_const (length_bitsOf 12)
      (by rw [List.getElem?_reverse' (j := f.length - 1 - 2 * m) (by omega), ha])
  have hsnd : slice (stream f) (12 * (2 * m) + 12) (12 * (2 * m) + 12 + 12) = bitsOf 12 c :=
    slice_flatMap_const (i := 2 * m + 1) (length_bitsOf 12)
      (by rw [List.getElem?_reverse' (j := f.length - 2 - 2 * m) (by omega), hc])
  rw [show 24 * m = 12 * (2 * m) by ring,
    ← slice_append_slice _ (j := 12 * (2 * m) + 12) (by omega) (by omega), hfst, hsnd, val_append,
    val_bitsOf, val_bitsOf, length_bitsOf]
  omega

/-- R66: byte `r` of pair `m` is byte `r` of the pair's number, most significant first. -/
theorem getElem?_pack_pair {f : List Nat} {m r : Nat} (hm : 2 * m + 2 ≤ f.length) (hr : r < 3) :
    (pack (stream f))[3 * m + r]? = some (BitVec.ofNat 8
      (val (slice (stream f) (24 * m) (24 * m + 24)) / 2 ^ (16 - 8 * r))) := by
  have hlen : (slice (stream f) (24 * m) (24 * m + 24)).length = 24 := by
    rw [length_slice, length_stream]; omega
  have hval := val_slice (bs := slice (stream f) (24 * m) (24 * m + 24)) (i := 8 * r) (j := 8 * r + 8)
    (by omega) (by omega)
  rw [slice_slice _ (by omega), hlen, show 24 - (8 * r + 8) = 16 - 8 * r by omega,
    Nat.add_sub_cancel_left] at hval
  rw [getElem?_pack _ _ (by rw [length_stream]; omega),
    show 8 * (3 * m + r) = 24 * m + 8 * r by ring, Nat.add_assoc, hval]
  exact congrArg some (BitVec.eq_of_toNat_eq (by simp))

/-- Settles O18: the three bytes are those of the pair's number `a * 4096 + c`. -/
theorem pairOfValuesFillsThreeBytes : Obligations.PairOfValuesFillsThreeBytes := by
  intro f m a c hm hf ha hc
  have ha' := hf a (List.mem_of_getElem? ha)
  have hc' := hf c (List.mem_of_getElem? hc)
  have byte {r x : Nat} (hr : r < 3) (hx : (a * 4096 + c) / 2 ^ (16 - 8 * r) % 256 = x % 256) :
      (pack (stream f))[3 * m + r]? = some (BitVec.ofNat 8 x) := by
    rw [getElem?_pack_pair hm hr, val_stream_pair hm ha hc ha' hc']
    exact congrArg some (BitVec.eq_of_toNat_eq hx)
  refine ⟨fun heven => ?_, byte (r := 0) (by decide) ?_, byte (r := 1) (by decide) ?_,
    byte (r := 2) (by decide) ?_⟩
  · rw [length_pack, length_stream]
    omega
  all_goals omega

end Sys2Proof.Machine

namespace Sys2Proof.Machine

/-! ### The shift register and the wire (R67, R72, R81) -/

/-- Settles O48: the newest bits stand first, last sent at position 0, and what the chain held follows. -/
theorem shiftMovesTowardFarEnd : Obligations.ShiftMovesTowardFarEnd := by
  intro sr ws p hp
  refine ⟨length_shiftAll sr ws, ?_⟩
  rw [shiftAll_eq, List.getElem?_take_of_lt hp]
  split
  next h => rw [List.getElem?_append_left (by simpa), List.getElem?_reverse h]
  next h => rw [List.getElem?_append_right (by simpa using h), List.length_reverse]

/-- R81: as many wire bits as the chain has places fill it, the last one sent nearest the block. -/
theorem shiftAll_of_length_eq {sr ws : List Bit} (h : ws.length = sr.length) :
    shiftAll sr ws = ws.reverse := by
  rw [shiftAll_eq, List.take_left' (by simpa)]

/-- R67: under the block's configuration the wire bits are the bytes' bits, bit 7 first. -/
theorem wireBits_standard (bs : List Byte) : SerialCfg.standard.wireBits bs = unpack bs :=
  SerialCfg.wireBits_msb8 _ bs rfl rfl

/-- R67: a packed Frame goes out as its stream. -/
theorem wireBits_pack_stream {f : List Nat} (h : f.length % 16 = 0) :
    SerialCfg.standard.wireBits (pack (stream f)) = stream f := by
  rw [wireBits_standard, unpack_pack_of_whole (by rw [length_stream]; omega)]

/-- Settles O49: bit `k` of byte `j` goes out at `8 j + 7 - k`, so what `pack` packs goes out in its order. -/
theorem wireOrderIsByteZeroBitSevenFirst : Obligations.WireOrderIsByteZeroBitSevenFirst := by
  refine ⟨fun bs => ?_, fun f => wireBits_pack_stream⟩
  rw [wireBits_standard]
  refine ⟨length_unpack bs, fun j k b hb hk => ?_⟩
  rw [getElem?_unpack bs j _ (by omega), hb, Option.map_some, show 7 - (7 - k) = k by omega]

/-- Settles O54: both times the chain holds the frame's wire bits and nothing else. -/
theorem repeatedFrameLeavesSameBits : Obligations.RepeatedFrameLeavesSameBits := by
  intro n sr bs hsr hbs
  have hlen : (SerialCfg.standard.wireBits bs).length = sr.length := by
    rw [wireBits_standard, length_unpack]
    omega
  rw [shiftAll_of_length_eq hlen, shiftAll_of_length_eq (by simp)]

/-! ### A Frame at rest in the chain (R82, R83) -/

/-- R83: where a whole Frame rests, channel `i` has the twelve places from `12 i`, bit 0 first. -/
theorem reverse_stream (f : List Nat) :
    (stream f).reverse = f.flatMap fun v => (bitsOf 12 v).reverse := by
  rw [stream, List.reverse_flatMap, List.reverse_reverse]
  rfl

theorem getElem?_reverse_stream {f : List Nat} {i b : Nat} (hi : i < f.length) (hb : b < 12) :
    (stream f).reverse[12 * i + b]? = some ((f.getD i 0).testBit b) := by
  rw [reverse_stream, getElem?_flatMap_const _ 12 (by simp) _ _ _ hb,
    List.getElem?_eq_getElem hi, Option.bind_some, List.getElem?_reverse (by simpa),
    length_bitsOf, getElem?_bitsOf (by omega), List.getD_eq_getElem _ _ hi,
    show 12 - 1 - (12 - 1 - b) = b by omega]

/-- R81, R185: what a transmission answered `Ok` does at the chips. -/
theorem Observer.seeAll_transmit_ok (ob : Observer) (c : SerialCfg) (bs : List Byte) :
    ob.seeAll (some c) [.transmit bs, .transportAnswer .ok] =
      some { ob with
        sr := shiftAll ob.sr (c.wireBits bs), flight := none, draws := ob.draws + 1 } := rfl

/-- R83: a packed Frame of as many channels as the chain has fills the shift register with its stream. -/
theorem shiftAll_packed_frame {n : Nat} {sr : List Bit} {f : List Nat} {bs : List Byte}
    (hf : f.length = 16 * n) (hbs : packChannelValues f = .ok (.bytes bs))
    (hsr : sr.length = 192 * n) :
    shiftAll sr (SerialCfg.standard.wireBits bs) = (stream f).reverse := by
  obtain ⟨-, h16, -, rfl⟩ := packChannelValues_ok hbs
  rw [wireBits_pack_stream h16, shiftAll_of_length_eq]
  rw [length_stream]
  omega

/-- Settles O53: the transmission fills the shift register with the Frame's stream, and touches no GS. -/
theorem frameIsDelivered : Obligations.FrameIsDelivered := by
  intro n f ob bs _ hf hbs hsr
  refine ⟨_, ob.seeAll_transmit_ok _ bs, rfl, fun c o b hc ho hb => ?_⟩
  rw [shiftAll_packed_frame hf hbs hsr, show 192 * c + 12 * o + b = 12 * (16 * c + o) + b by ring]
  exact getElem?_reverse_stream (by omega) hb

/-! ### The latch (R82, R85) -/

/-- R79, R82: channel `i` is held in the twelve places from `12 i`. -/
theorem latchValue_eq (sr : List Bit) (i : Nat) :
    latchValue sr i = BitVec.ofNat 12 (val (slice sr (12 * i) (12 * i + 12)).reverse) := by
  have hplace : srIndex (chipOf i) (outOf i) 0 = 12 * i := by
    simp only [srIndex, chipOf, outOf]
    omega
  rw [latchValue, show srIndex (chipOf i) (outOf i) 12 = srIndex (chipOf i) (outOf i) 0 + 12 from rfl,
    hplace]

/-- R85: a latched value is the sum of the weights of its twelve bits. -/
theorem toNat_latchValue {sr : List Bit} {i : Nat} (h : 12 * i + 12 ≤ sr.length) :
    (latchValue sr i).toNat =
      ((List.range 12).map fun b => (sr.getD (12 * i + b) false).toNat * 2 ^ b).sum := by
  have hlen : (slice sr (12 * i) (12 * i + 12)).length = 12 := by
    rw [length_slice]
    omega
  have hlt := val_lt (slice sr (12 * i) (12 * i + 12)).reverse
  rw [List.length_reverse, hlen] at hlt
  rw [latchValue_eq, BitVec.toNat_ofNat, Nat.mod_eq_of_lt hlt, val_reverse, hlen]
  congr 1
  apply List.map_congr_left
  intro b hb
  rw [List.getD_eq_getElem?_getD, List.getD_eq_getElem?_getD,
    getElem?_slice _ _ _ _ (by simpa using hb)]

theorem getD_latch {sr : List Bit} {i : Nat} (h : 12 * i + 12 ≤ sr.length) (d : ChannelValue) :
    (latch sr).getD i d = latchValue sr i := by
  rw [List.getD_eq_getElem _ _ (by rw [length_latch]; omega)]
  simp [latch]

/-- R83, R85: latching a Frame at rest in the chain gives its channels. -/
theorem latch_reverse_stream (f : List Nat) :
    latch (stream f).reverse = f.map (BitVec.ofNat 12) := by
  apply List.ext_getElem (by simp)
  intro i _ hi
  have hi' : i < f.length := by simpa using hi
  simp only [latch, List.getElem_map, List.getElem_range]
  rw [latchValue_eq, reverse_stream, slice_flatMap_const (by simp) (List.getElem?_eq_getElem hi'),
    List.reverse_reverse, val_bitsOf]
  exact BitVec.eq_of_toNat_eq (by simp)

/-! ### Line writes at the chips (R85 to R88) -/

/-- R88: a write that repeats the level is no edge. -/
theorem Observer.seeLine_repeat (o : Observer) (l : Line) : o.seeLine l (o.lvl.get l) = some o := by
  simp [Observer.seeLine]

/-- R86: BLANK moves its level only. -/
theorem Observer.seeLine_blank (o : Observer) (v : Bit) :
    o.seeLine .blank v = some { o with lvl := { o.lvl with blank := v } } := by
  unfold Observer.seeLine
  split <;> rfl

theorem Observer.seeLine_vprg (o : Observer) (v : Bit) :
    o.seeLine .vprg v = some { o with lvl := { o.lvl with vprg := v } } := by
  unfold Observer.seeLine
  split <;> rfl

/-- R87: GSCLK falling moves its level only. -/
theorem Observer.seeLine_gsclk_false (o : Observer) :
    o.seeLine .gsclk false = some { o with lvl := { o.lvl with gsclk := false } } := by
  unfold Observer.seeLine
  split <;> rfl

/-- R87: GSCLK rising advances every count. -/
theorem Observer.seeLine_gsclk_rise {o : Observer} (h : o.lvl.gsclk = false) :
    o.seeLine .gsclk true =
      some { o with lvl := { o.lvl with gsclk := true }, cnt := o.cnt.map (· + 1) } := by
  simp [Observer.seeLine, LineBank.get, LineBank.set, h]

/-- R85: XLAT rising moves its level only. -/
theorem Observer.seeLine_xlat_true (o : Observer) :
    o.seeLine .xlat true = some { o with lvl := { o.lvl with xlat := true } } := by
  unfold Observer.seeLine
  split <;> rfl

/-- R85: XLAT falling with VPRG = 1 is refused. -/
theorem Observer.seeLine_xlat_fall_refused {o : Observer} (hx : o.lvl.xlat = true)
    (hv : o.lvl.vprg = true) : o.seeLine .xlat false = none := by
  simp [Observer.seeLine, LineBank.get, hx, hv]

/-- R85: XLAT = 0 with VPRG = 0 latches where XLAT was 1. -/
theorem Observer.seeLine_xlat_false {o : Observer} (hv : o.lvl.vprg = false) :
    o.seeLine .xlat false = some { o with
      lvl := { o.lvl with xlat := false }
      gs := if o.lvl.xlat then latch o.sr else o.gs } := by
  cases hx : o.lvl.xlat <;> simp [Observer.seeLine, LineBank.get, LineBank.set, hx, hv]

/-- Settles O51: the fall is refused under VPRG = 1, and under VPRG = 0 each value latched is the sum of its
bits' weights. -/
theorem latchCopiesShiftRegister : Obligations.LatchCopiesShiftRegister := by
  intro ob n hx hsr
  refine ⟨Observer.seeLine_xlat_fall_refused hx, fun hv => ⟨_, Observer.seeLine_xlat_false hv, ?_, ?_⟩⟩
  · rw [if_pos hx, length_latch]
    omega
  · intro c o hc ho
    rw [if_pos hx, getD_latch (by omega), toNat_latchValue (by omega),
      show 12 * (16 * c + o) = 192 * c + 12 * o by ring]

/-- Settles O52: the rise of a GSCLK pulse counts, and its fall takes the level back to where it was. -/
theorem levelsAtTheChips : Obligations.LevelsAtTheChips := by
  intro ob
  refine ⟨ob.seeLine_repeat, fun hg cfg => ?_, fun hb c o => if_pos hb⟩
  rw [Observer.seeAll_cons, Observer.see_setLine, Observer.seeLine_gsclk_rise hg, Option.bind_some,
    Observer.seeAll_cons, Observer.see_setLine, Observer.seeLine_gsclk_false]
  simp [← hg]

/-- Settles O59: the bank is written at the one line, and the chips see the one event. -/
theorem setLineDrivesAndEmits : Obligations.SetLineDrivesAndEmits := fun l v s =>
  ⟨LineBank.get_set_same s.line l (some v), fun _ hk => LineBank.get_set_other s.line l _ (some v) hk,
    rfl⟩

/-! ### INIT and APPLY_FRAME at the chips (R85, R87, R88, R89) -/

/-- R272, R273: what the chips do on INIT's events, VPRG being 0 by the time XLAT is written (D13). -/
theorem Observer.seeAll_initEvents (o : Observer) (cfg : Option SerialCfg) :
    o.seeAll cfg initEvents = some { o with
      lvl := { gsclk := false, blank := true, vprg := false, xlat := false }
      gs := if o.lvl.xlat then latch o.sr else o.gs } := by
  simp [initEvents, Observer.seeLine_gsclk_false, Observer.seeLine_blank, Observer.seeLine_vprg,
    Observer.seeLine_xlat_false]

/-- Settles O29: the six micro-steps show INIT's events to the chips, which latch only where XLAT was 1. -/
theorem initAtTheChips : Obligations.InitAtTheChips := by
  intro s o hv hst ho
  refine ⟨_, _, execTimes_init hst hv, (congrArg (Option.bind · _) ho).trans (o.seeAll_initEvents _),
    rfl, rfl, rfl, rfl, fun hl => ?_⟩
  obtain ⟨sr, gs, cnt, lvl, flight, draws⟩ := o
  obtain rfl := hl
  rfl

/-- R81, R85 to R88, R199: what the chips do on a successful APPLY_FRAME's events, VPRG and GSCLK being 0:
they latch what the transmission has shifted in, and count once. -/
theorem Observer.seeAll_applyFrameEvents {o : Observer} (c : SerialCfg) (bs : List Byte)
    (hv : o.lvl.vprg = false) (hg : o.lvl.gsclk = false) :
    o.seeAll (some c) (applyFrameEvents bs) = some { o with
      sr := shiftAll o.sr (c.wireBits bs)
      gs := latch (shiftAll o.sr (c.wireBits bs))
      cnt := o.cnt.map (· + 1)
      lvl := { gsclk := false, blank := false, vprg := false, xlat := false }
      flight := none
      draws := o.draws + 1 } := by
  rw [show applyFrameEvents bs = [.transmit bs, .transportAnswer .ok] ++
      [.setLine .blank true, .setLine .xlat true, .setLine .xlat false, .setLine .blank false,
        .setLine .gsclk true, .setLine .gsclk false] from rfl,
    Observer.seeAll_append, Observer.seeAll_transmit_ok]
  simp [Observer.seeLine_blank, Observer.seeLine_xlat_true, Observer.seeLine_xlat_false,
    Observer.seeLine_gsclk_rise, Observer.seeLine_gsclk_false, hv, hg]

/-- R89, R194: what the chips do on a transmission answered `Err`. -/
theorem Observer.seeAll_transmit_err (o : Observer) (c : SerialCfg) (bs : List Byte) :
    o.seeAll (some c) [.transmit bs, .transportAnswer .err] = some { o with
      sr := freeBits (o.draws + 1) o.sr.length
      gs := freeChannels (o.draws + 1) o.gs.length
      flight := none
      draws := o.draws + 2 } := by
  simp [Observer.see, Observer.beginFlight, Observer.havoc]

/-- R188, R194: row Transmitting with a known answer `Err`. -/
theorem exec_applyFrame_err {bs : List Byte} {s : State} {as : List TransportDraw}
    (hp : s.phase = .transmitting) (ha : s.answers = .err :: as) :
    exec (.applyFrame bs) s = .next
      ((({ s with answers := as } : State).endTransmit .err).raise .transportError 0) := by
  simp only [exec, execApplyFrame, hp, applyFrameAnswer, State.transportDraw, ha, State.takeDraw]

/-- Settles O34: the first micro-step transmits, the second takes the answer, and the chips' data are free. -/
theorem transportErrorLeavesLines : Obligations.TransportErrorLeavesLines := by
  intro bs s as o c hp hb ha ho hc
  rw [execTimes_next 1 (exec_applyFrame_idle hp hb), execTimes_one,
    exec_applyFrame_err (s := s.beginTransmit bs) rfl ha, ← o.seeAll_transmit_err c bs]
  simp [State.beginTransmit, State.endTransmit, State.raise, State.respond, State.emit, ho, hc, hp]

/-! ### From the host to the outputs (R200) -/

/-- A run that goes on after `m` steps. -/
theorem run_add {m : Nat} {s t : State} (n : Nat) (h : Host.Core.run Sys2Proof.core m s = .next t) :
    Host.Core.run Sys2Proof.core (m + n) s = Host.Core.run Sys2Proof.core n t := by
  induction m generalizing s with
  | zero =>
    cases h
    rw [Nat.zero_add]
  | succ m ih =>
    have hstep := h
    simp only [Host.Core.run] at hstep
    split at hstep
    next u hu => rw [Nat.add_right_comm, run_next _ hu, ih hstep]
    next => cases hstep
    next => cases hstep

/-- R190: an INIT with a valid configuration still holds the slot after five micro-steps. -/
theorem execTimes_init_configured {s : State} (h : s.initStage = .start)
    (hv : s.params.configValid = true) : ∃ t, execTimes .init 5 s = .next t ∧ t.cmd = s.cmd :=
  ⟨_, (execTimes_next 4 (exec_init_start h hv)).trans <|
    (execTimes_next 3 (exec_init_gsclkLow rfl)).trans <|
    (execTimes_next 2 (exec_init_blankHigh rfl)).trans <|
    (execTimes_next 1 (exec_init_vprgLow rfl)).trans <|
    (execTimes_one _ _).trans (exec_init_xlatLow rfl), rfl⟩

/-- R189 to R191: six steps of the machine carry an INIT from the port through. -/
theorem run_init {s : State} {rest : List PortItem} (hc : s.cmd = none)
    (hp : s.port = .term .init :: rest) (hst : s.initStage = .start)
    (hv : s.params.configValid = true) :
    Host.Core.run Sys2Proof.core 6 s = .next { s with
      line := { gsclk := some false, blank := some true, vprg := some false, xlat := some false }
      serialCfg := some SerialCfg.standard
      bound := true
      trace := s.trace ++ initEvents
      responses := s.responses ++ [.ok .noData]
      port := rest
      obs := s.obs.bind fun o => o.seeAll s.serialCfg initEvents } := by
  rw [hc]
  obtain ⟨t, ht, hcmd⟩ :=
    execTimes_init_configured (s := { s with port := rest, cmd := some .init }) hst hv
  exact (run_term_eq_execTimes hc hp ht hcmd).trans (execTimes_init hst hv)

/-- R200: INIT and a successful APPLY_FRAME at the chips, whatever they held. -/
theorem Observer.seeAll_init_applyFrame (o : Observer) (cfg : Option SerialCfg) (c : SerialCfg)
    (bs : List Byte) :
    ((o.seeAll cfg initEvents).bind fun o' => o'.seeAll (some c) (applyFrameEvents bs)) =
      some { o with
        sr := shiftAll o.sr (c.wireBits bs)
        gs := latch (shiftAll o.sr (c.wireBits bs))
        cnt := o.cnt.map (· + 1)
        lvl := { gsclk := false, blank := false, vprg := false, xlat := false }
        flight := none
        draws := o.draws + 1 } := by
  rw [Observer.seeAll_initEvents, Option.bind_some, Observer.seeAll_applyFrameEvents _ _ rfl rfl]

/-- Settles O55: INIT leaves the chips ready, whatever they held; the transmission then fills the shift
register with the Frame's stream, and the latch copies it. -/
theorem frameReachesTheOutputs : Obligations.FrameReachesTheOutputs := by
  intro s f bs rest as ob hv hc hp hst _ hf hbs hport ha ho hsize
  obtain ⟨hsr, -⟩ := hsize
  refine ⟨_, _, (run_add 8 (run_init hc hport hst hv)).trans
      (stepsCarryApplyFrameThrough bs _ rest as hc hp rfl rfl ha),
    (congrArg (fun ob? => (Option.bind ob? _).bind _) ho).trans
      (ob.seeAll_init_applyFrame s.serialCfg SerialCfg.standard bs), ?_, rfl, ?_, rfl, rfl⟩
  · simp
  · rw [shiftAll_packed_frame hf hbs hsr, latch_reverse_stream]

end Sys2Proof.Machine

/-! The family of the encoding: the binary command layer both ways (R102 to R109, R116), the binary response (R110),
what a step answers (R101, R235), and the host's assembler (R113, R114). -/

namespace Sys2Proof

/-! ### The header as a number and as bytes (R102, R103) -/

theorem Frame.toNat_opc (f : Frame) : f.opc.toNat = f.header.toNat / 2 ^ 24 := by
  rw [Frame.opc, BitVec.extractLsb'_toNat, Nat.shiftRight_eq_div_pow, Nat.mod_eq_of_lt (by omega)]

theorem Frame.len_eq_mod (f : Frame) : f.len = f.header.toNat % 2 ^ 24 := by
  rw [Frame.len, BitVec.extractLsb'_toNat, Nat.shiftRight_zero]

theorem Frame.len_le_maxLen (f : Frame) : f.len ≤ Config.maxLen :=
  Nat.le_sub_one_of_lt (BitVec.isLt _)

/-- R102: a header is made of its own opcode and count. -/
@[simp] theorem headerOf_opc_len (f : Frame) : headerOf f.opc f.len = f.header := by
  rw [headerOf, Frame.len, BitVec.ofNat_toNat, BitVec.setWidth_eq]
  exact (BitVec.extractLsb'_append_extractLsb'_eq_extractLsb' rfl).trans BitVec.extractLsb'_eq_self

/-- R105, R110: a count that fits 24 bits is the header's count. -/
theorem headerOf_len_of_le {n : Nat} (h : n ≤ 16777215) (c : Byte) (pay : List Byte) :
    ({ header := headerOf c n, payload := pay } : Frame).len = n := by
  rw [headerOf_len, Nat.mod_eq_of_lt (by omega)]

/-- R103: the byte that travels last is the least significant. -/
theorem toNat_append_byte {n : Nat} (x : BitVec n) (b : Byte) :
    (x ++ b).toNat = x.toNat * 256 + b.toNat := by
  rw [BitVec.toNat_append, ← Nat.shiftLeft_add_eq_or_of_lt b.isLt, Nat.shiftLeft_eq]

/-- R103: the header four bytes make, as a number. -/
theorem toNat_header_of_bytes (b0 b1 b2 b3 : Byte) :
    (b0 ++ b1 ++ b2 ++ b3 : Header).toNat =
      b0.toNat * 16777216 + b1.toNat * 65536 + b2.toNat * 256 + b3.toNat := by
  rw [toNat_append_byte, toNat_append_byte, toNat_append_byte]
  ring

/-- R103: the bytes of a header are those it was made of. -/
theorem headerBytes_of_bytes (b0 b1 b2 b3 : Byte) :
    headerBytes (b0 ++ b1 ++ b2 ++ b3 : Header) = [b0, b1, b2, b3] := by
  have hbyte (b : Byte) (k : Nat) (h : (b0 ++ b1 ++ b2 ++ b3 : Header).toNat / 2 ^ k % 256 = b.toNat) :
      (b0 ++ b1 ++ b2 ++ b3 : Header).extractLsb' k 8 = b :=
    BitVec.eq_of_toNat_eq (by rw [BitVec.extractLsb'_toNat, Nat.shiftRight_eq_div_pow]; exact h)
  rw [headerBytes, hbyte b0 24, hbyte b1 16, hbyte b2 8, hbyte b3 0] <;>
    rw [toNat_header_of_bytes] <;> omega

/-- Settles O5: the header the four bytes make is `toNat_header_of_bytes`, and an element is read by definition. -/
theorem headerTravelsBigEndian : Obligations.HeaderTravelsBigEndian := by
  refine ⟨fun b0 b1 b2 b3 pay => ⟨_, rfl, ?_, ?_, rfl, ?_⟩, fun _ _ _ => rfl⟩
  · apply BitVec.eq_of_toNat_eq
    rw [Frame.toNat_opc, toNat_header_of_bytes]
    omega
  · rw [Frame.len_eq_mod, toNat_header_of_bytes]
    omega
  · rw [Frame.toBytes, headerBytes_of_bytes]
    rfl

/-! ### Operands and payloads (R106, R107) -/

/-- R106: bit `i` of a payload. -/
theorem getElem?_unpack_getD {pay : List Byte} {i : Nat} (h : i < 8 * pay.length) :
    (unpack pay)[i]? = some ((pay.getD (i / 8) 0#8).getLsbD (7 - i % 8)) := by
  have hbit := getElem?_unpack pay (i / 8) (i % 8) (Nat.mod_lt _ (by decide))
  rw [Nat.div_add_mod] at hbit
  rw [hbit, List.getD_eq_getElem _ _ (by omega), List.getElem?_eq_getElem (by omega), Option.map_some]

/-- R145: the bits of whole bytes are packed as they were. -/
@[simp] theorem pack_unpack (bs : List Byte) : pack (unpack bs) = bs := by
  apply List.ext_getElem?
  intro j
  obtain hj | hj := Nat.lt_or_ge j bs.length
  · have hslice : slice (unpack bs) (8 * j) (8 * j + 8) = bitsOf 8 bs[j].toNat :=
      slice_flatMap_const (by simp) (List.getElem?_eq_getElem hj)
    rw [getElem?_pack _ _ (by simpa using hj), hslice, val_bitsOf, List.getElem?_eq_getElem hj,
      Nat.mod_eq_of_lt bs[j].isLt, BitVec.ofNat_toNat, BitVec.setWidth_eq]
  · rw [List.getElem?_eq_none hj, List.getElem?_eq_none (by simpa using hj)]

/-- R106, R110: a whole number of bytes' bits needs no padding. -/
theorem padToByte_of_whole {b : List Bit} (h : b.length % 8 = 0) : padToByte b = b := by
  simp [padToByte, h]

/-- R106, R110: padding keeps the bits and adds zeros. -/
theorem getElem?_padToByte {b : List Bit} {i : Nat} (h : i < 8 * ((b.length + 7) / 8)) :
    (padToByte b)[i]? = some (b.getD i false) := by
  obtain hi | hi := Nat.lt_or_ge i b.length
  · rw [padToByte, List.getElem?_append_left hi, List.getElem?_eq_getElem hi, List.getD_eq_getElem _ _ hi]
  · rw [padToByte, List.getElem?_append_right hi, List.getElem?_replicate, if_pos (by omega),
      List.getD_eq_default _ _ hi]

@[simp] theorem unpack_pack_padToByte (b : List Bit) : unpack (pack (padToByte b)) = padToByte b :=
  unpack_pack_of_whole (by simp)

/-- R106: a bit list is read back from its payload. -/
@[simp] theorem bitOperand_pack_padToByte (b : List Bit) : bitOperand b.length (pack (padToByte b)) = b := by
  rw [bitOperand, unpack_pack_padToByte, padToByte, List.take_left]

/-- R106: a payload without pad bits is written again as it was read. -/
theorem pack_padToByte_bitOperand {n : Nat} {pay : List Byte} (hn : n % 8 = 0)
    (h : pay.length = (n + 7) / 8) : pack (padToByte (bitOperand n pay)) = pay := by
  have hall : bitOperand n pay = unpack pay := List.take_of_length_le (by rw [length_unpack]; omega)
  rw [padToByte_of_whole (by rw [hall, length_unpack]; omega), hall, pack_unpack]

/-- R107: the element two bytes make is written as those bytes. -/
theorem valueBytes_of_bytes (hi lo : Byte) : valueBytes (hi.toNat * 256 + lo.toNat) = [hi, lo] := by
  have hlo := lo.isLt
  have hbyte {x : Nat} {b : Byte} (h : x % 256 = b.toNat) : BitVec.ofNat 8 x = b :=
    BitVec.eq_of_toNat_eq (by rw [BitVec.toNat_ofNat]; exact h)
  rw [valueBytes, hbyte (b := hi) (by omega), hbyte (b := lo) (by omega)]

/-- R107: a payload of whole elements is written again as it was read. -/
theorem flatMap_valueBytes_valueOperand : ∀ {pay : List Byte}, pay.length % 2 = 0 →
    (valueOperand pay).flatMap valueBytes = pay
  | [], _ => rfl
  | [_], h => by simp at h
  | hi :: lo :: rest, h => by
    have hrest : rest.length % 2 = 0 := by
      rw [List.length_cons, List.length_cons] at h
      omega
    rw [valueOperand, List.flatMap_cons, valueBytes_of_bytes, flatMap_valueBytes_valueOperand hrest]
    rfl

/-- R107: an element read from two bytes fits 16 bits. -/
theorem valueOperand_le : ∀ {pay : List Byte}, ∀ x ∈ valueOperand pay, x ≤ 65535
  | [], _, h => by simp [valueOperand] at h
  | [_], _, h => by simp [valueOperand] at h
  | hi :: lo :: rest, x, h => by
    rw [valueOperand, List.mem_cons] at h
    obtain rfl | h := h
    · have := hi.isLt
      have := lo.isLt
      omega
    · exact valueOperand_le x h

/-! ### The decoder and the encoder (R104, R109) -/

theorem Opcode.ofCode_eq_some_iff {c : Byte} {op : Opcode} : Opcode.ofCode c = some op ↔ c = op.code := by
  constructor
  · intro h
    unfold Opcode.ofCode at h
    split at h <;> cases h <;> exact BitVec.eq_of_toNat_eq ‹_›
  · rintro rfl
    cases op <;> rfl

theorem Opcode.ofCode_eq_none_iff {c : Byte} : Opcode.ofCode c = none ↔ c.toNat = 0 ∨ 7 ≤ c.toNat := by
  unfold Opcode.ofCode
  split <;> simp only [reduceCtorEq, true_iff, false_iff, imp_false] at * <;> omega

/-- R109: what the decoder accepts, and what it reads. -/
theorem decode_eq_ok_iff {f : Frame} {i : Instr} :
    decode f = .ok i ↔ ∃ op : Opcode, f.opc = op.code ∧ (op = .init → f.len = 0) ∧
      f.payload.length = op.payloadBytes f.len ∧ op.resultCount f.len ≤ Config.maxLen ∧
      i = op.term f.len f.payload := by
  unfold decode
  cases hop : Opcode.ofCode f.opc with
  | none =>
    simp only [reduceCtorEq, ← Opcode.ofCode_eq_some_iff, hop, false_and, exists_false]
  | some op =>
    simp only [← Opcode.ofCode_eq_some_iff, hop, Option.some.injEq, exists_eq_left']
    split_ifs <;> simp_all [eq_comm]

/-- R102 to R108: a command whose values fit is the term of its opcode, count and payload. -/
theorem Instr.term_opcode {i : Instr} (h : i.valuesFit = true) :
    i.opcode.term i.count i.payload = i := by
  cases i with
  | init => rfl
  | packBits b => exact congrArg Instr.packBits (bitOperand_pack_padToByte b)
  | expandOutputs f => exact congrArg Instr.expandOutputs (bitOperand_pack_padToByte f)
  | simpleByteArray f => exact congrArg Instr.simpleByteArray (bitOperand_pack_padToByte f)
  | packChannelValues v =>
    exact congrArg Instr.packChannelValues
      (valueOperand_valueBytes v (by simpa [Instr.valuesFit] using h))
  | applyFrame bs => rfl

/-- R104, R105: every command's encoding has its opcode, its count and a payload of the length implied. -/
theorem encodable (i : Instr) : Laws.Encodable.Statement i := by
  cases i with
  | init => exact Laws.Encodable.init
  | packBits b => exact Laws.Encodable.packBits b
  | expandOutputs f => exact Laws.Encodable.expandOutputs f
  | simpleByteArray f => exact Laws.Encodable.simpleByteArray f
  | packChannelValues v => exact Laws.Encodable.packChannelValues v
  | applyFrame bs => exact Laws.Encodable.applyFrame bs

/-- R104: INIT has no operand. -/
theorem Instr.count_of_init {i : Instr} (h : i.opcode = .init) : i.count = 0 := by
  cases i <;> cases h
  rfl

theorem Instr.wellFormed_iff {i : Instr} : i.WellFormed ↔
    i.count ≤ Config.maxLen ∧ i.opcode.resultCount i.count ≤ Config.maxLen ∧ i.valuesFit = true := by
  simp only [Instr.WellFormed, Instr.wellFormed, Bool.and_eq_true, decide_eq_true_eq, and_assoc]

/-- Settles O1: the encoding passes the decoder's checks, and the term read is the command. -/
theorem decodeReadsBackEncode : Obligations.DecodeReadsBackEncode := by
  intro i hwf
  obtain ⟨hcount, hresult, hfit⟩ := Instr.wellFormed_iff.1 hwf
  obtain ⟨hopc, -, hlen, hpay⟩ := encodable i
  specialize hlen hcount
  refine decode_eq_ok_iff.2 ⟨i.opcode, hopc, fun hinit => ?_, ?_, ?_, ?_⟩
  · rw [hlen, Instr.count_of_init hinit]
  · rw [hpay, hlen]
  · rwa [hlen]
  · rw [hlen]
    exact (Instr.term_opcode hfit).symm

/-! ### The decoder and the spec's tables (R104, R106, R107, R109) -/

/-- R106: the spec's element `i` is bit `i` of the payload. -/
theorem SpecTable.bitElements_eq {n : Nat} {pay : List Byte} (h : pay.length = (n + 7) / 8) :
    SpecTable.bitElements n pay = bitOperand n pay := by
  apply List.ext_getElem?
  intro i
  obtain hi | hi := Nat.lt_or_ge i n
  · rw [bitOperand, List.getElem?_take_of_lt hi, getElem?_unpack_getD (by omega)]
    simp [SpecTable.bitElements, hi]
  · rw [List.getElem?_eq_none (by simpa [SpecTable.bitElements] using hi),
      List.getElem?_eq_none (by simp; omega)]

/-- R107: the spec's element `i` is made of bytes `2 i` and `2 i + 1`. -/
theorem SpecTable.valueElements_eq {n : Nat} {pay : List Byte} (h : pay.length = 2 * n) :
    SpecTable.valueElements n pay = valueOperand pay := by
  induction n generalizing pay with
  | zero => rw [List.length_eq_zero_iff.1 h]; rfl
  | succ n ih =>
    match pay, h with
    | hi :: lo :: rest, h =>
      rw [valueOperand, ← ih (by rw [List.length_cons, List.length_cons] at h; omega)]
      simp only [SpecTable.valueElements, List.range_succ_eq_map, List.map_cons, List.map_map,
        Function.comp_def, Nat.succ_eq_add_one, mul_add, mul_one, List.getD_cons_succ, mul_zero,
        List.getD_cons_zero]

theorem SpecTable.payloadBytes_code (op : Opcode) (n : Nat) :
    SpecTable.payloadBytes op.code.toNat n = op.payloadBytes n := by cases op <;> rfl

theorem SpecTable.resultCount_code (op : Opcode) (n : Nat) :
    SpecTable.resultCount op.code.toNat n = op.resultCount n := by cases op <;> rfl

theorem Opcode.code_assigned (op : Opcode) : ¬ (op.code.toNat = 0 ∨ 7 ≤ op.code.toNat) := by
  cases op <;> decide

theorem Opcode.code_eq_one_iff (op : Opcode) : op.code.toNat = 1 ↔ op = .init := by
  cases op <;> decide

/-- R109: on the number of an assigned opcode the spec's algorithm makes the decoder's checks. -/
theorem SpecTable.decode_code (op : Opcode) (n : Nat) (pay : List Byte) :
    SpecTable.decode op.code.toNat n pay =
      if op = .init ∧ n ≠ 0 then .error .initLength
      else if pay.length ≠ op.payloadBytes n then .error .payloadLength
      else if op.resultCount n > Config.maxLen then .error .responseTooLong
      else .ok (op.term n pay) := by
  unfold SpecTable.decode
  rw [if_neg op.code_assigned, SpecTable.payloadBytes_code, SpecTable.resultCount_code]
  refine ite_congr (by rw [Opcode.code_eq_one_iff]) (fun _ => rfl) fun _ =>
    ite_congr rfl (fun _ => rfl) fun hpay => ite_congr rfl (fun _ => rfl) fun _ => ?_
  rw [not_not] at hpay
  cases op with
  | init => rfl
  | packBits => exact congrArg (Except.ok ∘ Instr.packBits) (SpecTable.bitElements_eq hpay)
  | expandOutputs => exact congrArg (Except.ok ∘ Instr.expandOutputs) (SpecTable.bitElements_eq hpay)
  | simpleByteArray => exact congrArg (Except.ok ∘ Instr.simpleByteArray) (SpecTable.bitElements_eq hpay)
  | packChannelValues =>
    exact congrArg (Except.ok ∘ Instr.packChannelValues) (SpecTable.valueElements_eq hpay)
  | applyFrame => rfl

/-- Settles O2: a reserved opcode is rejected by both, and an assigned one is `SpecTable.decode_code`. -/
theorem decoderIsTheSpecAlgorithm : Obligations.DecoderIsTheSpecAlgorithm := by
  intro f
  rw [← Frame.toNat_opc, ← Frame.len_eq_mod]
  unfold decode
  cases hop : Opcode.ofCode f.opc with
  | none => rw [SpecTable.decode, if_pos (Opcode.ofCode_eq_none_iff.1 hop)]
  | some op => rw [Opcode.ofCode_eq_some_iff.1 hop, SpecTable.decode_code]

/-- Settles O4: the spec's algorithm reads of a bit list's payload its length and the first LEN bits. -/
theorem padBitsDoNotMatter : Obligations.PadBitsDoNotMatter := by
  intro f g hheader hpay hmin hmax hbits
  have hbits : SpecTable.bitElements f.len f.payload = SpecTable.bitElements f.len g.payload :=
    List.map_congr_left fun i hi => hbits i (List.mem_range.1 hi)
  rw [decoderIsTheSpecAlgorithm, decoderIsTheSpecAlgorithm, ← hheader, ← Frame.toNat_opc,
    ← Frame.len_eq_mod]
  obtain hopc | hopc | hopc : f.opc.toNat = 2 ∨ f.opc.toNat = 3 ∨ f.opc.toNat = 4 := by omega
  all_goals simp [SpecTable.decode, hopc, hpay, hbits]

/-! ### What the decoder accepts, encoded again (R105 to R109) -/

@[simp] theorem Opcode.opcode_term (op : Opcode) (n : Nat) (pay : List Byte) :
    (op.term n pay).opcode = op := by cases op <;> rfl

/-- R105: the term read from a payload of the right length has the header's count. -/
theorem Opcode.count_term {op : Opcode} {n : Nat} {pay : List Byte} (hinit : op = .init → n = 0)
    (hpay : pay.length = op.payloadBytes n) : (op.term n pay).count = n := by
  have hbits (h : pay.length = (n + 7) / 8) : (bitOperand n pay).length = n := by
    rw [length_bitOperand]
    omega
  cases op with
  | init => exact (hinit rfl).symm
  | packBits => exact hbits hpay
  | expandOutputs => exact hbits hpay
  | simpleByteArray => exact hbits hpay
  | packChannelValues =>
    have h : pay.length = 2 * n := hpay
    exact (length_valueOperand pay).trans (by omega)
  | applyFrame => exact hpay

/-- R107: the values read from a payload fit 16 bits. -/
theorem Opcode.valuesFit_term (op : Opcode) (n : Nat) (pay : List Byte) :
    (op.term n pay).valuesFit = true := by
  cases op with
  | packChannelValues => simpa [Opcode.term, Instr.valuesFit] using fun x => valueOperand_le x
  | init | packBits | expandOutputs | simpleByteArray | applyFrame => rfl

/-- R106 to R108: where no pad bit is left, the term has the payload it was read from. -/
theorem Opcode.payload_term {op : Opcode} {n : Nat} {pay : List Byte}
    (hpay : pay.length = op.payloadBytes n) (hwhole : n % 8 = 0 ∨ 5 ≤ op.code.toNat) :
    (op.term n pay).payload = pay := by
  have hn (h : op.code.toNat < 5) : n % 8 = 0 := hwhole.resolve_right (Nat.not_le.2 h)
  cases op with
  | init => exact (List.length_eq_zero_iff.1 hpay).symm
  | packBits => exact pack_padToByte_bitOperand (hn (by decide)) hpay
  | expandOutputs => exact pack_padToByte_bitOperand (hn (by decide)) hpay
  | simpleByteArray => exact pack_padToByte_bitOperand (hn (by decide)) hpay
  | packChannelValues =>
    have h : pay.length = 2 * n := hpay
    exact flatMap_valueBytes_valueOperand (by omega)
  | applyFrame => rfl

/-- Settles O3: the term read has the opcode and the count of the header, and the payload by
`Opcode.payload_term`. -/
theorem decodedCommandReencodes : Obligations.DecodedCommandReencodes := by
  intro f i h
  obtain ⟨op, hopc, hinit, hpay, hresult, rfl⟩ := decode_eq_ok_iff.1 h
  have hcount := Opcode.count_term hinit hpay
  refine ⟨Instr.wellFormed_iff.2 ⟨?_, ?_, op.valuesFit_term _ _⟩, ?_, fun hwhole => ?_⟩
  · rw [hcount]
    exact f.len_le_maxLen
  · rwa [hcount, Opcode.opcode_term]
  · rw [encode, hcount, Opcode.opcode_term, ← hopc, headerOf_opc_len]
  · exact Opcode.payload_term hpay (hopc ▸ hwhole)

/-! ### The spec's examples (R116) -/

/-- Settles O6, by evaluating the decoder on each of the five. -/
theorem specExampleWordsDecode : Obligations.SpecExampleWordsDecode := by
  refine ⟨?_, ?_, ?_, ?_, ?_⟩ <;> decide

end Sys2Proof

namespace Sys2Proof.Machine

/-! ### The binary response (R110) -/

/-- R110: bit `i` of a packed bit list, zeros after its last. -/
theorem getLsbD_pack_padToByte {b : List Bit} {i : Nat} (h : i < 8 * ((b.length + 7) / 8)) :
    ((pack (padToByte b)).getD (i / 8) 0#8).getLsbD (7 - i % 8) = b.getD i false := by
  have hbit := getElem?_unpack_getD (pay := pack (padToByte b)) (i := i) (by simpa using h)
  rw [unpack_pack_padToByte, getElem?_padToByte h] at hbit
  exact (Option.some.inj hbit).symm

/-- Settles O46: the header is `headerOf` of status and count, and a bit list's payload is packed and padded. -/
theorem binaryResponseFormat : Obligations.BinaryResponseFormat := by
  refine ⟨fun p hp => ⟨headerOf_opc _ _ _, headerOf_len_of_le hp _ _⟩, rfl, fun _ => rfl,
    fun b => ⟨?_, fun i hi => getLsbD_pack_padToByte hi⟩,
    fun e d hd => ⟨headerOf_opc _ _ _, headerOf_len_of_le hd _ _, rfl⟩⟩
  simp [Response.toFrame, Payload.toBytes]

/-! ### What a step answers (R101, R235) -/

/-- R101: a micro-step answers and frees the slot, or is one of INIT or APPLY_FRAME that does neither. -/
theorem exec_responses {i : Instr} {s t : State} (h : exec i s = .next t) :
    (∃ r, t.responses = s.responses ++ [r] ∧ t.cmd = none) ∨
      (t.responses = s.responses ∧ t.cmd = s.cmd ∧ (i = .init ∨ ∃ bs, i = .applyFrame bs)) := by
  obtain ⟨r, -, rfl⟩ | ⟨rfl, hi⟩ | ⟨bs, rfl, ha⟩ := exec_cases h
  · exact .inl ⟨r, by simp, by simp⟩
  · obtain ⟨-, -, rfl⟩ | ⟨-, -, rfl⟩ | ⟨-, rfl⟩ | ⟨-, rfl⟩ | ⟨-, rfl⟩ | ⟨-, rfl⟩ | ⟨-, rfl⟩ :=
      execInit_cases hi <;> simp
  · obtain ⟨-, -, rfl⟩ | ⟨-, -, rfl⟩ | ⟨-, -, rfl⟩ | ⟨-, -, rfl⟩ | ⟨-, rfl⟩ | ⟨-, rfl⟩ | ⟨-, rfl⟩ |
      ⟨-, rfl⟩ | ⟨-, rfl⟩ | ⟨-, rfl⟩ := execApplyFrame_cases ha <;> simp

/-- Settles O11: fetching answers nothing, a command that is run has `exec_responses`, and a rejection answers. -/
theorem oneResponseEndsACommand : Obligations.OneResponseEndsACommand := by
  intro s t h
  obtain ⟨i, s', hf, he⟩ | ⟨-, -, rfl⟩ | ⟨-, f, rest, e, -, -, rfl⟩ := step_cases h
  · obtain ⟨hcmd, -, -, -, -, -, -, -, hresp, -⟩ := State.fetch_run_keeps hf
    rw [← hresp]
    obtain hanswer | ⟨hr, hc, rfl | ⟨bs, rfl⟩⟩ := exec_responses he
    · exact .inl hanswer
    · exact .inr ⟨hr, .inr (.inl (hc.trans hcmd))⟩
    · exact .inr ⟨hr, .inr (.inr ⟨bs, hc.trans hcmd⟩)⟩
  · exact .inr ⟨rfl, .inl rfl⟩
  · exact .inl ⟨_, rfl, rfl⟩

/-- R235: with the slot empty the step rejects the undecodable frame first at the port. -/
theorem step_rejects {s : State} {f : Frame} {rest : List PortItem} {e : IllegalCommand}
    (hc : s.cmd = none) (hp : s.port = .frame f :: rest) (hd : decode f = .error e) :
    step s = .next (({ s with port := rest } : State).raise .illegalCommand e.detail) := by
  simp only [step, State.fetch, hc, hp, hd]

/-- Settles O9: at an idle block with the slot empty, `raise` only answers. -/
theorem rejectedCommandOnlyAnswers : Obligations.RejectedCommandOnlyAnswers := by
  refine ⟨fun s f rest e hc hidle hp hd => ?_, rfl, rfl, rfl, rfl⟩
  have hraise := State.conclude_idle (s := { s with port := rest }) hidle (.err .illegalCommand e.detail)
  rw [step_rejects hc hp hd, hc]
  exact congrArg Host.Outcome.next hraise

/-! ### Frames, terms and table words at the port (R100, R102) -/

/-- Settles O58: the first step decodes the frame to the term and runs it in the same state. -/
theorem frameAndTermAreServedAlike : Obligations.FrameAndTermAreServedAlike := by
  intro i s n hwf hc _
  have hframe := step_accepts_frame (s := { s with port := [.frame (encode i)] }) hc rfl
    (decodeReadsBackEncode i hwf)
  have hterm := step_accepts (s := { s with port := [.term i] }) hc rfl
  exact run_congr n (hframe.trans hterm.symm)

theorem decode_tableFrame {nbits w : Nat} {i : Instr} (h : decodeTableWord nbits w = some i) :
    decode (tableFrame nbits w) = .ok i := by
  unfold decodeTableWord at h
  split at h
  · rwa [← Option.some.inj h]
  · cases h

/-- Settles O8: the word's frame is first at the port and the slot is empty, so the step accepts it. -/
theorem placedWordRunsNext : Obligations.PlacedWordRunsNext := fun s nbits w _ h =>
  step_accepts_frame (s := s.withFetchWord nbits w) rfl rfl (decode_tableFrame h)

end Sys2Proof.Machine

namespace Sys2Proof.Machine.Asm

/-! ### Accepted literals (R113, R114) -/

/-- Where every element is read without an error, each result is read from an element. -/
theorem exists_of_mem_mapM {ε α β : Type} {f : α → Except ε β} {l : List α} {ys : List β}
    (h : l.mapM f = .ok ys) : ∀ y ∈ ys, ∃ x ∈ l, f x = .ok y := by
  induction l generalizing ys with
  | nil => cases h; simp
  | cons x l ih =>
    rw [List.mapM_cons] at h
    cases hx : f x with
    | error e => rw [hx] at h; cases h
    | ok y =>
      cases hl : l.mapM f with
      | error e => rw [hx, hl] at h; cases h
      | ok zs =>
        rw [hx, hl] at h
        cases h
        intro z hz
        obtain rfl | hz := List.mem_cons.1 hz
        · exact ⟨x, List.mem_cons_self, hx⟩
        · obtain ⟨x', hx', hz'⟩ := ih hl z hz
          exact ⟨x', List.mem_cons_of_mem x hx', hz'⟩

/-- R114: the joined pieces have at most MAX_LEN elements, each of a piece. -/
theorem join_ok {α : Type} {qs : List (List α × Nat)} {xs : List α} (h : join qs = .ok xs) :
    xs.length ≤ Config.maxLen ∧ ∀ x ∈ xs, ∃ q ∈ qs, x ∈ q.1 := by
  induction qs generalizing xs with
  | nil => cases h; simp
  | cons q qs ih =>
    unfold join at h
    cases htail : join qs with
    | error e => rw [htail] at h; cases h
    | ok tail =>
      obtain ⟨-, hmem⟩ := ih htail
      simp only [htail] at h
      split at h
      next hlen =>
        cases h
        refine ⟨by simpa [mul_comm] using hlen, fun x hx => ?_⟩
        obtain hx | hx := List.mem_append.1 hx
        · obtain ⟨ys, hys, hxy⟩ := List.mem_flatten.1 hx
          exact ⟨q, List.mem_cons_self, List.eq_of_mem_replicate hys ▸ hxy⟩
        · obtain ⟨q', hq', hxq⟩ := hmem x hx
          exact ⟨q', List.mem_cons_of_mem q hq', hxq⟩
      next => cases h

/-- R113: an operand accepted as a literal is joined from pieces that were read. -/
theorem operand_lit {α β : Type} {atom : List Tok → Option (β × List Tok)}
    {lit : β → Except AsmRefusal (List α)} {ts : List Tok} {xs : List α}
    (h : operand atom lit ts = .ok (.lit xs)) :
    ∃ (ps : List (β × Nat)) (qs : List (List α × Nat)),
      ps.mapM (fun p => (lit p.1).map fun s => (s, p.2)) = .ok qs ∧ join qs = .ok xs := by
  unfold operand at h
  split at h
  · cases h
  · split at h
    · cases h
    · split at h
      · cases h
      · cases hj : join _ <;> rw [hj] at h <;> cases h
        exact ⟨_, _, ‹_›, hj⟩

/-- R114: an accepted literal has at most MAX_LEN elements, each read from a literal of the text. -/
theorem operand_lit_fits {α β : Type} {atom : List Tok → Option (β × List Tok)}
    {lit : β → Except AsmRefusal (List α)} {ts : List Tok} {xs : List α}
    (h : operand atom lit ts = .ok (.lit xs)) :
    xs.length ≤ Config.maxLen ∧ ∀ x ∈ xs, ∃ b ys, lit b = .ok ys ∧ x ∈ ys := by
  obtain ⟨ps, qs, hread, hjoin⟩ := operand_lit h
  obtain ⟨hlen, hmem⟩ := join_ok hjoin
  refine ⟨hlen, fun x hx => ?_⟩
  obtain ⟨q, hq, hxq⟩ := hmem x hx
  obtain ⟨p, -, hp⟩ := exists_of_mem_mapM hread q hq
  cases hlit : lit p.1 <;> rw [hlit] at hp <;> cases hp
  exact ⟨_, _, hlit, hxq⟩

/-- R114: the numbers of an accepted value list are at most 65535. -/
theorem valuesLit_le {ns v : List Nat} (h : valuesLit ns = .ok v) : ∀ x ∈ v, x ≤ 65535 := by
  intro x hx
  obtain ⟨n, -, hn⟩ := exists_of_mem_mapM h x hx
  unfold valueLit at hn
  split at hn <;> cases hn
  assumption

/-- Settles O56: the three operands are one function, and a value list checks each number. -/
theorem acceptedLiteralsFit : Obligations.AcceptedLiteralsFit := by
  refine ⟨fun _ _ h => (operand_lit_fits h).1, fun _ _ h => (operand_lit_fits h).1, fun _ _ h => ?_⟩
  obtain ⟨hlen, hmem⟩ := operand_lit_fits h
  refine ⟨hlen, fun x hx => ?_⟩
  obtain ⟨ns, v, hlit, hxv⟩ := hmem x hx
  exact valuesLit_le hlit x hxv

/-! ### Variables without a payload (R113) -/

/-- R113: a command whose operand is a variable without a payload cannot be issued. -/
theorem Cmd.instr_eq_none {x : Var} {env : VarEnv} {c : Cmd} (hx : env.payload x = none)
    (hc : c = .packBits (.var x) ∨ c = .expandOutputs (.var x) ∨ c = .simpleByteArray (.var x) ∨
      c = .packChannelValues (.var x) ∨ c = .applyFrame (.var x)) : c.instr env = none := by
  obtain rfl | rfl | rfl | rfl | rfl := hc <;>
    simp [Cmd.instr, bitsOfSrc, bytesOfSrc, valuesOfSrc, hx]

/-- Settles O57: the program stops at the statement it cannot issue. -/
theorem failedVariableStopsProgram : Obligations.FailedVariableStopsProgram := by
  intro x st rest h hx hc
  simp only [runProgram, Cmd.instr_eq_none hx hc]

end Sys2Proof.Machine.Asm

/-! The family of the Bit Packer (R140 to R153): what each command answers for which operands, its effect on an
idle block, and what packing a whole Frame gives. -/

namespace Sys2Proof.Machine

/-! ### What the Bit Packer answers (R143 to R149) -/

/-- R146, R147, R149 (D9): a boundary that asks for whole chips, read as the length it rejects. -/
theorem ite_wholeChips {α : Type} (n : Nat) (a b : α) :
    (if wholeChips n then a else b) = if n = 0 ∨ n % 16 ≠ 0 then b else a := by
  have hw : wholeChips n = true ↔ ¬ (n = 0 ∨ n % 16 ≠ 0) := by
    rw [wholeChips_iff]
    omega
  rw [if_congr hw rfl rfl, ite_not]

/-- R149 (D10): the range check, read as the values it rejects. -/
theorem ite_channelsInRange {α : Type} (v : List Nat) (a b : α) :
    (if channelsInRange v then a else b) = if ∃ x ∈ v, 4095 < x then b else a := by
  have hr : channelsInRange v = true ↔ ¬ ∃ x ∈ v, 4095 < x := by
    simp only [channelsInRange_iff, not_exists, not_and, not_lt]
  rw [if_congr hr rfl rfl, ite_not]

/-- R143, R144 (D8): legacy mode drops the bits after the last whole group. -/
theorem packBits_eq (legacy : Bool) (b : List Bit) :
    packBits legacy b =
      if b.length % 8 = 0 then .ok (.bytes (pack b))
      else if legacy then .ok (.bytes (pack (b.take (8 * (b.length / 8)))))
      else .err .inputShapeError 1 := by
  simp only [packBits, wholeBytes_iff, slice, List.drop_zero, Nat.sub_zero]

/-- R146 (D9): the length that is rejected, and else twelve bits a flag. -/
theorem expandOutputs_eq (f : List Bit) :
    expandOutputs f =
      if f.length = 0 ∨ f.length % 16 ≠ 0 then .err .inputShapeError 2 else .ok (.bits (expand f)) :=
  ite_wholeChips ..

/-- R147 (D9): the same lengths are rejected, and else the expansion is packed. -/
theorem simpleByteArray_eq (f : List Bit) :
    simpleByteArray f =
      if f.length = 0 ∨ f.length % 16 ≠ 0 then .err .inputShapeError 2
      else .ok (.bytes (pack (expand f))) :=
  ite_wholeChips ..

/-- R149, R239: the length decides before the range. -/
theorem packChannelValues_eq (v : List Nat) :
    packChannelValues v =
      if v.length = 0 ∨ v.length % 16 ≠ 0 then .err .inputShapeError 2
      else if ∃ x ∈ v, 4095 < x then .err .inputShapeError 3
      else .ok (.bytes (pack (stream v))) := by
  rw [packChannelValues, ite_wholeChips, ite_channelsInRange]

/-- R147: flags of an accepted length are answered. -/
theorem simpleByteArray_of_whole {f : List Bit} (h0 : f.length ≠ 0) (h16 : f.length % 16 = 0) :
    simpleByteArray f = .ok (.bytes (pack (expand f))) :=
  if_pos ((wholeChips_iff _).2 ⟨h0, h16⟩)

/-- R149: an accepted Frame is answered, the converse of `packChannelValues_ok`. -/
theorem packChannelValues_of_accepted {v : List Nat} (h0 : v.length ≠ 0) (h16 : v.length % 16 = 0)
    (hv : ∀ x ∈ v, x ≤ 4095) : packChannelValues v = .ok (.bytes (pack (stream v))) := by
  rw [packChannelValues, if_pos ((wholeChips_iff _).2 ⟨h0, h16⟩), if_pos ((channelsInRange_iff v).2 hv)]

/-! ### The commands on an idle block (R140) -/

/-- R140: a Bit Packer command on an idle block records its response, frees the slot, and changes nothing
else. -/
theorem exec_of_packerResponse {i : Instr} {s : State} {r : Response} (hp : s.phase = .idle)
    (hr : packerResponse s.params i = some r) :
    exec i s = .next { s with cmd := none, responses := s.responses ++ [r] } := by
  rw [← State.conclude_idle hp]
  cases i with
  | init | applyFrame => cases hr
  | packBits | expandOutputs | simpleByteArray | packChannelValues => cases hr; rfl

/-- R140: every command but the controller's two is the Bit Packer's. -/
theorem exists_packerResponse {i : Instr} (hi : i ≠ .init) (ha : ∀ bs, i ≠ .applyFrame bs) (p : Params) :
    ∃ r, packerResponse p i = some r := by
  cases i with
  | init => exact absurd rfl hi
  | applyFrame bs => exact absurd rfl (ha bs)
  | packBits | expandOutputs | simpleByteArray | packChannelValues => exact ⟨_, rfl⟩

/-- R144 (D40): of the parameters the Bit Packer reads LEGACY_TRUNCATE only. -/
theorem packerResponse_congr {p q : Params} (h : p.legacyTruncate = q.legacyTruncate) (i : Instr) :
    packerResponse p i = packerResponse q i := by
  cases i with
  | packBits b => exact congrArg (fun legacy => some (packBits legacy b)) h
  | init | expandOutputs | simpleByteArray | packChannelValues | applyFrame => rfl

/-- Settles O22, by the response of `packBits_eq`. -/
theorem packBitsAnswers : Obligations.PackBitsAnswers := by
  intro b s hp
  rw [← packBits_eq]
  exact ⟨rfl, exec_of_packerResponse hp rfl⟩

/-- Settles O23, by the response of `expandOutputs_eq`. -/
theorem expandOutputsAnswers : Obligations.ExpandOutputsAnswers := by
  intro f s hp
  refine ⟨rfl, ?_⟩
  rw [exec_of_packerResponse hp rfl, expandOutputs_eq]
  rfl

/-- Settles O24, by the response of `simpleByteArray_eq`. -/
theorem simpleByteArrayAnswers : Obligations.SimpleByteArrayAnswers := by
  intro f s hp
  rw [← simpleByteArray_eq]
  exact ⟨rfl, exec_of_packerResponse hp rfl⟩

/-- Settles O25, by the response of `packChannelValues_eq`. -/
theorem packChannelValuesAnswers : Obligations.PackChannelValuesAnswers := by
  intro v s hp
  rw [← packChannelValues_eq]
  exact ⟨rfl, exec_of_packerResponse hp rfl⟩

/-- Settles O26: both states give the command the response that LEGACY_TRUNCATE and the operand decide. -/
theorem bitPackerReadsNoBlockState : Obligations.BitPackerReadsNoBlockState := by
  intro i hi ha s s' hp hp' hl
  obtain ⟨r, hr⟩ := exists_packerResponse hi ha s.params
  exact ⟨r, exec_of_packerResponse hp hr,
    exec_of_packerResponse hp' ((packerResponse_congr hl i).symm.trans hr)⟩

/-! ### Packed Frames (R150 to R153) -/

/-- Settles O15, by `unpack_pack_of_whole` and `pack_unpack`. -/
theorem packAndUnpackAreInverse : Obligations.PackAndUnpackAreInverse :=
  ⟨fun _ => unpack_pack_of_whole, pack_unpack⟩

/-- Settles O19: twelve bits a flag or value, eight bits a byte. -/
theorem packedFrameLengths : Obligations.PackedFrameLengths := by
  intro N hN
  refine ⟨fun f hf => ⟨?_, by omega, _, simpleByteArray_of_whole (by omega) (by omega), ?_⟩,
    fun v hv hle => ⟨_, packChannelValues_of_accepted (by omega) (by omega) hle, ?_⟩⟩
  · rw [length_expand]
    omega
  · rw [length_pack, length_expand]
    omega
  · rw [length_pack, length_stream]
    omega

/-- R146, R150: the twelve bits of a flag's Channel Value are twelve copies of the flag. -/
theorem bitsOf_flagValue (b : Bit) : bitsOf 12 (flagValue b) = List.replicate 12 b := by
  cases b <;> decide

/-- R150: the flags' expansion is the stream of their Channel Values. -/
theorem stream_map_flagValue (f : List Bit) : stream (f.map flagValue) = expand f := by
  rw [stream, expand, ← List.map_reverse, List.flatMap_map]
  exact congrArg (f.reverse.flatMap ·) (funext bitsOf_flagValue)

theorem flagValue_le (b : Bit) : flagValue b ≤ 4095 := by
  cases b <;> decide

/-- Settles O20: the two commands pack the same bits. -/
theorem onOffIsASpecialCase : Obligations.OnOffIsASpecialCase := by
  intro f h0 h16
  have hle : ∀ x ∈ f.map flagValue, x ≤ 4095 := List.forall_mem_map.2 fun b _ => flagValue_le b
  have hvalues := packChannelValues_of_accepted (by simpa using h0) (by simpa using h16) hle
  rw [stream_map_flagValue] at hvalues
  exact ⟨_, simpleByteArray_of_whole h0 h16, hvalues⟩

/-- R148: channel `i`, read from its twelve bits in the stream. -/
theorem val_slice_stream {v : List Nat} {i : Nat} (hi : i < v.length) (hle : v[i] ≤ 4095) :
    val (slice (stream v) (12 * (v.length - 1 - i)) (12 * (v.length - 1 - i) + 12)) = v[i] := by
  have hbits : slice (stream v) (12 * (v.length - 1 - i)) (12 * (v.length - 1 - i) + 12) = bitsOf 12 v[i] :=
    slice_flatMap_const (length_bitsOf 12) (getElem?_reverse_channel (List.getElem?_eq_getElem hi))
  rw [hbits, val_bitsOf, Nat.mod_eq_of_lt (by omega)]

/-- R152: a whole number of chips' values is read back, channel by channel, from its packed stream. -/
theorem unpackFrame_pack_stream {v : List Nat} (h16 : v.length % 16 = 0) (hv : ∀ x ∈ v, x ≤ 4095) :
    unpackFrame (pack (stream v)) = v := by
  have hn : 16 * ((pack (stream v)).length / 24) = v.length := by
    rw [length_pack, length_stream]
    omega
  have hbits : unpack (pack (stream v)) = stream v :=
    unpack_pack_of_whole (by rw [length_stream]; omega)
  simp only [unpackFrame, Config.bytesPerChip, hn, hbits]
  apply List.ext_getElem (by simp)
  intro i _ hi
  rw [List.getElem_map, List.getElem_range]
  exact val_slice_stream hi (hv _ (List.getElem_mem hi))

/-- Settles O21, by `unpackFrame_pack_stream`. -/
theorem packedFrameUnpacks : Obligations.PackedFrameUnpacks := fun _ h0 h16 hv =>
  ⟨_, packChannelValues_of_accepted h0 h16 hv, unpackFrame_pack_stream h16 hv⟩

end Sys2Proof.Machine

/-! The family of the Device Controller (R180 to R201): the port while a command is in progress, the errors of INIT
and APPLY_FRAME, APPLY_FRAME's rows one by one and run through, a hung transport, the lines at rest, and the wire
under SPI mode 0. -/

namespace Sys2Proof.Machine

/-! ### Commands that wait at the port (R189) -/

/-- R189: no command touches the port. -/
theorem exec_port {i : Instr} {s t : State} (h : exec i s = .next t) : t.port = s.port := by
  obtain ⟨r, -, rfl⟩ | ⟨-, hi⟩ | ⟨bs, -, ha⟩ := exec_cases h
  · simp
  · obtain ⟨-, -, rfl⟩ | ⟨-, -, rfl⟩ | ⟨-, rfl⟩ | ⟨-, rfl⟩ | ⟨-, rfl⟩ | ⟨-, rfl⟩ | ⟨-, rfl⟩ :=
      execInit_cases hi <;> simp
  · obtain ⟨-, -, rfl⟩ | ⟨-, -, rfl⟩ | ⟨-, -, rfl⟩ | ⟨-, -, rfl⟩ | ⟨-, rfl⟩ | ⟨-, rfl⟩ | ⟨-, rfl⟩ |
      ⟨-, rfl⟩ | ⟨-, rfl⟩ | ⟨-, rfl⟩ := execApplyFrame_cases ha <;> simp

/-- Settles O10: the step is a micro-step of the command in the slot, which leaves the port. -/
theorem overlappingCommandIsHeld : Obligations.OverlappingCommandIsHeld := fun _ _ _ hc h =>
  exec_port ((step_busy hc).symm.trans h)

/-! ### The wire under SPI mode 0 (R187) -/

/-- R187: a bit on the wire is SOUT set, then one SCLK pulse. -/
theorem wireActs_cons (w : Bit) (ws : List Bit) :
    wireActs (w :: ws) = .sout w :: .sclk true :: .sclk false :: wireActs ws := rfl

/-- R187: a chip samples each bit at its pulse's rise. -/
theorem sampled_wireActs (sout : Bit) (ws : List Bit) : sampled false sout (wireActs ws) = ws := by
  induction ws generalizing sout with
  | nil => rfl
  | cons w ws ih => simp [wireActs_cons, sampled, ih]

theorem sclkAfter_wireActs (ws : List Bit) : sclkAfter false (wireActs ws) = false := by
  induction ws with
  | nil => rfl
  | cons w ws ih => simp [wireActs_cons, sclkAfter, ih]

/-- Settles O50, bit by bit. -/
theorem modeZeroDeliversTheBits : Obligations.ModeZeroDeliversTheBits := fun sout ws =>
  ⟨sampled_wireActs sout ws, sclkAfter_wireActs ws, rfl⟩

/-! ### Commands answered with an error at once (R232, R236) -/

/-- R190, R232: INIT checks the configuration before it does anything. -/
theorem exec_init_invalid {s : State} (hst : s.initStage = .start)
    (hv : s.params.configValid = false) : exec .init s = .next (s.raise .configurationError 0) := by
  simp only [exec, execInit, hst, hv, Bool.false_eq_true, if_false]

/-- R188, R236: row Idle of a block that is not bound. -/
theorem exec_applyFrame_unbound {bs : List Byte} {s : State} (hp : s.phase = .idle)
    (hb : s.bound = false) : exec (.applyFrame bs) s = .next (s.raise .notInitialized 0) := by
  simp only [exec, execApplyFrame, hp, applyFrameStart, hb, Bool.false_eq_true, if_false]

/-- Settles O28: at an idle block the error is only answered. -/
theorem initRejectsBadConfiguration : Obligations.InitRejectsBadConfiguration := by
  intro s hv hp hst
  rw [exec_init_invalid hst hv]
  exact congrArg Host.Outcome.next (State.conclude_idle hp (.err .configurationError 0))

/-- Settles O30: at an idle block the error is only answered. -/
theorem applyFrameNeedsInit : Obligations.ApplyFrameNeedsInit := by
  intro bs s hp hb
  rw [exec_applyFrame_unbound hp hb]
  exact congrArg Host.Outcome.next (State.conclude_idle hp (.err .notInitialized 0))

/-! ### The rows of APPLY_FRAME (R188) -/

/-- R188, rows Transmitting: the transport's draw decides. -/
theorem exec_applyFrame_transmitting {bs : List Byte} {s : State} (hp : s.phase = .transmitting) :
    exec (.applyFrame bs) s = applyFrameAnswer s := by
  simp only [exec, execApplyFrame, hp]

/-- R188: row Transmitting where the draw, known or free, is `Ok`. -/
theorem applyFrameAnswer_ok {s : State} (hd : s.transportDraw = .ok) :
    applyFrameAnswer s = .next { s.takeDraw with
      pending := []
      phase := .blanked
      line := { s.line with blank := some true }
      trace := s.trace ++ [.transportAnswer .ok, .setLine .blank true]
      obs := s.obs.bind fun o =>
        o.seeAll s.serialCfg [.transportAnswer .ok, .setLine .blank true] } := by
  simp [applyFrameAnswer, hd, State.endTransmit, State.setLine, State.emit, LineBank.set,
    Option.bind_assoc]

/-- R188, R194: where it is `Err`. -/
theorem applyFrameAnswer_err {s : State} (hd : s.transportDraw = .err) :
    applyFrameAnswer s = .next { s.takeDraw with
      pending := []
      phase := .idle
      cmd := none
      responses := s.responses ++ [.err .transportError 0]
      trace := s.trace ++ [.transportAnswer .err]
      obs := s.obs.bind fun o => o.see s.serialCfg (.transportAnswer .err) } := by
  simp [applyFrameAnswer, hd, State.endTransmit, State.raise, State.respond, State.emit]

/-- R188, R195: where the transport hangs. -/
theorem applyFrameAnswer_hang {s : State} (hd : s.transportDraw = .hang) :
    applyFrameAnswer s = .fault .transportHung := by
  simp only [applyFrameAnswer, hd]

/-- R188: the line write that leads from one of the five pulse rows to the next phase. -/
inductive Phase.Pulses : Phase → Line → Bit → Phase → Prop where
  | latchRise : Pulses .blanked .xlat true .latchHigh
  | latchFall : Pulses .latchHigh .xlat false .latched
  | unblank : Pulses .latched .blank false .unblanked
  | clockRise : Pulses .unblanked .gsclk true .clockHigh
  | clockFall : Pulses .clockHigh .gsclk false .clocked

theorem exec_applyFrame_pulse {bs : List Byte} {s : State} {p q : Phase} {l : Line} {v : Bit}
    (hp : s.phase = p) (h : p.Pulses l v q) :
    exec (.applyFrame bs) s = .next { s.setLine l v with phase := q } := by
  cases h <;> simp only [exec, execApplyFrame, hp]

/-- R37: INIT stays within Idle. -/
theorem execInit_phase {s t : State} (hp : s.phase = .idle) (h : execInit s = .next t) :
    t.phase = .idle := by
  obtain ⟨-, -, rfl⟩ | ⟨-, -, rfl⟩ | ⟨-, rfl⟩ | ⟨-, rfl⟩ | ⟨-, rfl⟩ | ⟨-, rfl⟩ | ⟨-, rfl⟩ :=
    execInit_cases h <;> simp [hp]

/-- R188: APPLY_FRAME alone leaves Idle. -/
theorem exec_phase_idle {i : Instr} {s t : State} (hi : ∀ bs, i ≠ .applyFrame bs)
    (hp : s.phase = .idle) (h : exec i s = .next t) : t.phase = .idle := by
  obtain ⟨r, -, rfl⟩ | ⟨-, h⟩ | ⟨bs, ha, -⟩ := exec_cases h
  · rw [State.conclude_idle hp]
    exact hp
  · exact execInit_phase hp h
  · exact absurd ha (hi bs)

/-- Settles O31, row by row. -/
theorem applyFrameMicroSteps : Obligations.ApplyFrameMicroSteps := fun _ _ =>
  ⟨exec_applyFrame_idle,
    fun hp hd => (exec_applyFrame_transmitting hp).trans (applyFrameAnswer_ok hd),
    fun hp hd => (exec_applyFrame_transmitting hp).trans (applyFrameAnswer_err hd),
    fun hp hd => (exec_applyFrame_transmitting hp).trans (applyFrameAnswer_hang hd),
    fun hp => exec_applyFrame_pulse hp .latchRise,
    fun hp => exec_applyFrame_pulse hp .latchFall,
    fun hp => exec_applyFrame_pulse hp .unblank,
    fun hp => exec_applyFrame_pulse hp .clockRise,
    fun hp => exec_applyFrame_pulse hp .clockFall,
    exec_applyFrame_clocked,
    fun hp hb => ⟨_, exec_applyFrame_unbound hp hb, rfl, rfl⟩,
    fun _ _ => exec_phase_idle⟩

/-- Settles O32, the eight events being `applyFrameEvents`. -/
theorem applyFrameCompletes : Obligations.ApplyFrameCompletes := fun _ _ _ =>
  execTimes_applyFrame_ok

/-! ### A hung transport (R195) -/

/-- A machine whose step faults has no longer run. -/
theorem run_fault {s : State} {r : Fault} (k : Nat) (h : step s = .fault r) :
    Host.Core.run Sys2Proof.core (k + 1) s = .fault r := by
  have hcore : Sys2Proof.core.step s = .fault r := h
  simp only [Host.Core.run, hcore]

theorem execTimes_fault {i : Instr} {s : State} {r : Fault} (k : Nat) (h : exec i s = .fault r) :
    execTimes i (k + 1) s = .fault r := by
  simp only [execTimes, h]

/-- Settles O35: the first step begins the transmission, and its answer's micro-step is the fault. -/
theorem hungTransportIsStuck : Obligations.HungTransportIsStuck := by
  intro bs s rest as hc hp hb hport ha
  have hbegin := (step_accepts hc hport).trans (exec_applyFrame_idle hp hb)
  refine ⟨⟨_, run_next 0 hbegin, rfl, rfl, rfl, rfl, rfl, rfl, rfl⟩, fun k => ?_⟩
  rw [run_next (k + 1) hbegin]
  refine run_fault k ((step_busy rfl).trans ?_)
  exact (exec_applyFrame_transmitting rfl).trans
    (applyFrameAnswer_hang (State.transportDraw_known ha))

/-! ### A free draw (R185) -/

/-- R188, R199: from Blanked the six last micro-steps write the latch, the unblanking and the clock pulse, and
answer. -/
theorem execTimes_applyFrame_of_blanked {bs : List Byte} {s : State} (hp : s.phase = .blanked) :
    execTimes (.applyFrame bs) 6 s = .next
      (({ ((((s.setLine .xlat true).setLine .xlat false).setLine .blank false).setLine .gsclk
          true).setLine .gsclk false with phase := .idle } : State).returnOk .noData) := by
  rw [execTimes_succ_last (execTimes_applyFrame_pulses hp), exec_applyFrame_clocked rfl]

/-- Settles O36: the draw once the transmission has begun is the free one. -/
theorem freeTransportDrawDecides : Obligations.FreeTransportDrawDecides := by
  intro bs s hp hb ha
  have hdraw : (s.beginTransmit bs).transportDraw = Config.transport s.transportDraws bs :=
    State.transportDraw_free ha
  have hbegin := exec_applyFrame_idle (bs := bs) hp hb
  have hanswer : exec (.applyFrame bs) (s.beginTransmit bs) = applyFrameAnswer (s.beginTransmit bs) :=
    exec_applyFrame_transmitting rfl
  split
  next h =>
    rw [applyFrameAnswer_ok (hdraw.trans h)] at hanswer
    rw [execTimes_next 7 hbegin, execTimes_next 6 hanswer, execTimes_applyFrame_of_blanked rfl]
    exact ⟨_, rfl, by simp, by simp [applyFrameEvents], by simp [ha]⟩
  next h =>
    rw [applyFrameAnswer_err (hdraw.trans h)] at hanswer
    rw [execTimes_next 1 hbegin, execTimes_one, hanswer]
    exact ⟨_, rfl, rfl, by simp, by simp [ha]⟩
  next h =>
    intro k
    rw [applyFrameAnswer_hang (hdraw.trans h)] at hanswer
    rw [execTimes_next (k + 1) hbegin, execTimes_fault k hanswer]

/-! ### The lines at rest (R197, R198) -/

/-- Settles O43: a bound block drives the levels its chips see, and those are the phase's. -/
theorem idleLinesOnceBound : Obligations.IdleLinesOnceBound := by
  intro s hI hb
  obtain ⟨o, -, ha⟩ := hI.coherent.observed
  obtain ⟨hline, hlev⟩ := ha.driven hb
  rw [hline]
  refine ⟨congrArg some (Phase.levels_vprg hlev), fun hp => ?_⟩
  rw [hp] at hlev
  obtain ⟨hg, -, hx⟩ := hlev
  exact ⟨congrArg some hg, congrArg some hx, nofun⟩

end Sys2Proof.Machine

/-! The family of the exceptions (R231 to R241): which errors a step can answer, what an error leaves unchanged,
and the status codes. -/

namespace Sys2Proof.Machine

/-! ### Status codes (R231) -/

theorem statusOfCode_code (e : ErrorStatus) : statusOfCode e.code = some (some e) := by
  cases e <;> rfl

/-- I26: a receiver gives the reserved codes no meaning. -/
theorem statusOfCode_reserved {c : Byte} (h : 6 ≤ c.toNat) : statusOfCode c = none := by
  unfold statusOfCode
  split
  case h_7 => rfl
  all_goals omega

/-- Settles O47: the codes by definition, read back status by status, and the reserved ones refused. -/
theorem statusCodes : Obligations.StatusCodes :=
  ⟨rfl, rfl, rfl, rfl, rfl, statusOfCode_code, rfl, fun _ => statusOfCode_reserved⟩

/-! ### How a command ends in an error (R231, R240) -/

/-- R240: the two ways a command that runs in `s` ends in an error, with the state it leaves. -/
inductive State.Fails (s : State) : ErrorStatus → Nat → State → Prop where
  /-- The error is only raised, with a status and detail of R231. -/
  | raised {e : ErrorStatus} {d : Nat} (hlisted : (e, d) ∈ SpecTable.errors)
      (he : e ≠ .transportError) : Fails s e d (s.raise e d)
  /-- R194: the transport answers `Err`, which is an event. -/
  | transport : Fails s .transportError 0 ((s.takeDraw.endTransmit .err).raise .transportError 0)

/-- R143, R146, R147, R149: a Bit Packer command has no error but that of its operand's shape. -/
theorem packerResponse_err {p : Params} {i : Instr} {e : ErrorStatus} {d : Nat}
    (h : packerResponse p i = some (.err e d)) :
    e = .inputShapeError ∧ (d = 1 ∨ d = 2 ∨ d = 3) := by
  cases i with
  | init | applyFrame => cases h
  | packBits b =>
    simp only [packerResponse, packBits_eq] at h
    split_ifs at h <;> cases h
    exact ⟨rfl, .inl rfl⟩
  | expandOutputs f =>
    simp only [packerResponse, expandOutputs_eq] at h
    split_ifs at h <;> cases h
    exact ⟨rfl, .inr (.inl rfl)⟩
  | simpleByteArray f =>
    simp only [packerResponse, simpleByteArray_eq] at h
    split_ifs at h <;> cases h
    exact ⟨rfl, .inr (.inl rfl)⟩
  | packChannelValues v =>
    simp only [packerResponse, packChannelValues_eq] at h
    split_ifs at h <;> cases h
    · exact ⟨rfl, .inr (.inl rfl)⟩
    · exact ⟨rfl, .inr (.inr rfl)⟩

/-- R232: INIT's one error is that of its configuration. -/
theorem execInit_fails {s t : State} {e : ErrorStatus} {d : Nat} (h : execInit s = .next t)
    (hr : t.responses = s.responses ++ [.err e d]) : s.Fails e d t := by
  obtain ⟨-, -, rfl⟩ | ⟨-, -, rfl⟩ | ⟨-, rfl⟩ | ⟨-, rfl⟩ | ⟨-, rfl⟩ | ⟨-, rfl⟩ | ⟨-, rfl⟩ :=
    execInit_cases h <;> simp at hr
  obtain ⟨rfl, rfl⟩ := hr
  exact .raised (by decide) nofun

/-- R233, R236: APPLY_FRAME's errors are that of an unbound block and that of the transport. -/
theorem execApplyFrame_fails {bs : List Byte} {s t : State} {e : ErrorStatus} {d : Nat}
    (h : execApplyFrame bs s = .next t) (hr : t.responses = s.responses ++ [.err e d]) :
    s.Fails e d t := by
  obtain ⟨-, -, rfl⟩ | ⟨-, -, rfl⟩ | ⟨-, -, rfl⟩ | ⟨-, -, rfl⟩ | ⟨-, rfl⟩ | ⟨-, rfl⟩ | ⟨-, rfl⟩ |
    ⟨-, rfl⟩ | ⟨-, rfl⟩ | ⟨-, rfl⟩ := execApplyFrame_cases h <;> simp at hr
  · obtain ⟨rfl, rfl⟩ := hr
    exact .raised (by decide) nofun
  · obtain ⟨rfl, rfl⟩ := hr
    exact .transport

/-- R231, R240: whatever the command, an error it answers is one of the two ways to fail. -/
theorem exec_fails {i : Instr} {s t : State} {e : ErrorStatus} {d : Nat} (h : exec i s = .next t)
    (hr : t.responses = s.responses ++ [.err e d]) : s.Fails e d t := by
  obtain ⟨r, hp, rfl⟩ | ⟨-, hi⟩ | ⟨bs, -, ha⟩ := exec_cases h
  · obtain rfl : r = .err e d := by simpa using hr
    obtain ⟨rfl, rfl | rfl | rfl⟩ := packerResponse_err hp <;> exact .raised (by decide) nofun
  · exact execInit_fails hi hr
  · exact execApplyFrame_fails ha hr

/-- R235: a rejection has one of the table's four details. -/
theorem illegalCommand_listed (e : IllegalCommand) :
    (ErrorStatus.illegalCommand, e.detail) ∈ SpecTable.errors := by
  cases e <;> decide

/-- R231, R240: a step that answers an error has fetched a command, which touches the port and the slot only,
and then failed. -/
theorem step_fails {s t : State} {e : ErrorStatus} {d : Nat} (h : step s = .next t)
    (hr : t.responses = s.responses ++ [.err e d]) :
    ∃ rest c, State.Fails { s with port := rest, cmd := c } e d t := by
  obtain ⟨i, s', hf, he⟩ | ⟨-, -, rfl⟩ | ⟨-, f, rest, ill, -, -, rfl⟩ := step_cases h
  · obtain ⟨-, rfl⟩ | ⟨-, item, rest, -, rfl, -⟩ := State.fetch_run hf
    · exact ⟨_, _, exec_fails he hr⟩
    · exact ⟨rest, some i, exec_fails he hr⟩
  · simp at hr
  · obtain ⟨rfl, rfl⟩ : ErrorStatus.illegalCommand = e ∧ ill.detail = d := by simpa using hr
    exact ⟨rest, s.cmd, .raised (illegalCommand_listed ill) nofun⟩

/-- Settles O12: both ways to fail answer a pair of the table. -/
theorem onlyListedErrorsAreAnswered : Obligations.OnlyListedErrorsAreAnswered := by
  intro s t e d h hr
  obtain ⟨rest, c, hfail⟩ := step_fails h hr
  cases hfail with
  | raised hlisted _ => exact hlisted
  | transport => decide

/-- Settles O13: each way to fail keeps what the statement says, and the invariant of the state it leaves, which
is Idle, empties `pending`. -/
theorem errorWritesNothingElse : Obligations.ErrorWritesNothingElse := by
  intro s t e d hI h hr
  have hpending : t.phase = .idle → t.pending = [] := fun hp =>
    (stepKeepsInv s t hI h).notPending (by rw [hp]; decide)
  obtain ⟨rest, c, hfail⟩ := step_fails h hr
  cases hfail with
  | raised _ he =>
    exact ⟨rfl, rfl, hpending rfl, rfl, rfl, rfl, fun _ => ⟨rfl, rfl⟩, fun h => absurd h he⟩
  | transport =>
    exact ⟨rfl, rfl, rfl, by simp, by simp, by simp, fun h => absurd rfl h, fun _ => by simp⟩

end Sys2Proof.Machine

/-! The family of reset and hazards: where on a trace XLAT may be written (R272, R277, R278). -/

namespace Sys2Proof.Machine

/-- The last level of a trace does not depend on what came before a trace that writes the line. -/
theorem lastLevel_append_of_some {l : Line} {v : Bit} (xs : List Event) {ys : List Event}
    (h : lastLevel l ys = some v) : lastLevel l (xs ++ ys) = some v := by
  induction ys using List.reverseRecOn with
  | nil => cases h
  | append_singleton ys e ih =>
    rw [← List.append_assoc]
    cases e with
    | setLine l' w =>
      by_cases hl : l' = l
      · simpa [lastLevel, hl] using h
      · simpa [lastLevel, hl] using ih (by simpa [lastLevel, hl] using h)
    | configureSerial _ | transmit _ | transportAnswer _ =>
      simpa [lastLevel] using ih (by simpa [lastLevel] using h)

/-- R277, R278 (D19): after these events XLAT may be written at level `v`. -/
def MayWriteXlat (pre : List Event) (v : Bit) : Prop :=
  lastLevel .blank pre = some true ∧
    (v = true → ∃ pre' bs, pre = pre' ++ [.transmit bs, .transportAnswer .ok, .setLine .blank true])

theorem MayWriteXlat.prepend {pre : List Event} {v : Bit} (h : MayWriteXlat pre v) (xs : List Event) :
    MayWriteXlat (xs ++ pre) v := by
  obtain ⟨hblank, hpulse⟩ := h
  refine ⟨lastLevel_append_of_some xs hblank, fun hv => ?_⟩
  obtain ⟨pre', bs, rfl⟩ := hpulse hv
  exact ⟨xs ++ pre', bs, (List.append_assoc ..).symm⟩

/-- Every XLAT write of a trace comes where XLAT may be written. -/
def XlatInPlace (tr : List Event) : Prop :=
  ∀ pre post v, tr = pre ++ .setLine .xlat v :: post → MayWriteXlat pre v

namespace XlatInPlace

theorem append {as bs : List Event} (ha : XlatInPlace as) (hb : XlatInPlace bs) :
    XlatInPlace (as ++ bs) := by
  intro pre post v h
  obtain ⟨mid, rfl, hbs⟩ | ⟨mid, has, hpost⟩ := List.append_eq_append_iff.mp h
  · exact (hb mid post v hbs).prepend as
  · obtain ⟨rfl, hbs⟩ | ⟨post', rfl, -⟩ := List.cons_eq_append_iff.mp hpost
    · simpa [has] using (hb [] post v hbs).prepend pre
    · exact ha pre post' v has

theorem take {tr : List Event} (h : XlatInPlace tr) (n : Nat) : XlatInPlace (tr.take n) := by
  intro pre post v htr
  refine h pre (post ++ tr.drop n) v ?_
  rw [← List.cons_append, ← List.append_assoc, ← htr, List.take_append_drop]

theorem flatMap {α : Type} {f : α → List Event} (hf : ∀ a, XlatInPlace (f a)) :
    ∀ as : List α, XlatInPlace (as.flatMap f)
  | [] => by simp [XlatInPlace]
  | a :: as => by simpa using (hf a).append (flatMap hf as)

end XlatInPlace

/-- R272 (D13, log entry 20): INIT's one XLAT write, of 0, comes after its BLANK = 1. -/
theorem xlatInPlace_initEvents : XlatInPlace initEvents := by
  intro pre post v h
  obtain ⟨rfl, rfl, -⟩ : pre = [.setLine .gsclk false, .setLine .blank true, .setLine .vprg false] ∧
      v = false ∧ post = [.configureSerial SerialCfg.standard] := by
    simpa [initEvents, List.cons_eq_append_iff] using h
  exact ⟨rfl, nofun⟩

/-- R199: APPLY_FRAME writes XLAT = 1 right after Transmit, its answer and BLANK = 1, and XLAT = 0 next. -/
theorem xlatInPlace_applyFrameEvents (bs : List Byte) : XlatInPlace (applyFrameEvents bs) := by
  intro pre post v h
  obtain ⟨rfl, rfl⟩ | ⟨rfl, rfl⟩ :
      pre = [.transmit bs, .transportAnswer .ok, .setLine .blank true] ∧ v = true ∨
      pre = [.transmit bs, .transportAnswer .ok, .setLine .blank true, .setLine .xlat true] ∧
        v = false := by
    simp [applyFrameEvents, List.cons_eq_append_iff] at h
    obtain ⟨mid, rfl, ⟨rfl, rfl, -⟩ | ⟨rfl, rfl, -⟩⟩ := h <;> simp
  · exact ⟨rfl, fun _ => ⟨[], bs, rfl⟩⟩
  · exact ⟨rfl, nofun⟩

/-- R194: a failed APPLY_FRAME writes no line. -/
theorem xlatInPlace_events : ∀ c : Transaction, XlatInPlace c.events
  | .init => xlatInPlace_initEvents
  | .applied bs => xlatInPlace_applyFrameEvents bs
  | .failed bs => by simp [XlatInPlace, Transaction.events, List.cons_eq_append_iff]

/-- R73, R74: an ordered trace is whole commands and then first events of one, each with XLAT in place. -/
theorem State.Ordered.xlatInPlace {s : State} (h : s.Ordered) : XlatInPlace s.trace := by
  obtain ⟨done, bs, -, htr⟩ := h
  rw [htr]
  exact ((XlatInPlace.flatMap xlatInPlace_events done).append
    ((xlatInPlace_applyFrameEvents bs).take _)).append (xlatInPlace_initEvents.take _)

/-- Settles O42: an ordered trace has every XLAT write in place. -/
theorem latchIsBlankedAndAfterTransmit : Obligations.LatchIsBlankedAndAfterTransmit :=
  fun _ pre post v h htr => h.xlatInPlace pre post v htr

end Sys2Proof.Machine
